-- ==== Sys2Proof/Word.lean ====
section
/-!
DEFINITION. The two word types of FXC: the 32-bit word of every interface (30_encoding.md R63) and the element.
-/
namespace Sys2Proof

/-- Every word FXC exchanges is exactly 32 bits (R63); bit 0 is the least significant (R13). -/
abbrev Word32 := BitVec 32

/-- An element: an unsigned `W`-bit integer, `W` 8 or 16 (R7), held zero-extended to the 16 bits in which every interface
carries it (R49, R67, R70). With `W = 8` the upper byte is 0 (DESIGN CHOICE, safe: log 4). -/
abbrev Element := BitVec 16

end Sys2Proof
end

