-- ==== Sys2Proof/Config.lean ====
section
/-!
DEFINITION. The implementation parameters of 00_scope.md R6 to R10, and the free value of 00_scope.md R14.
-/
namespace Sys2Proof

/-- The element width `W`: one or two bytes, and nothing else (R7, U12). -/
inductive Width where
  /-- `W = 8` -/
  | w8
  /-- `W = 16` -/
  | w16
deriving DecidableEq, Repr

/-- `W` as a number of bits (R7). -/
def Width.bits : Width → Nat
  | .w8 => 8
  | .w16 => 16

/-- `e < 2^W`: the range of an element (R7, R68 (f), R72). -/
def Width.fits (w : Width) (e : Element) : Bool := decide (e.toNat < 2 ^ w.bits)

/-- The parameters that are fixed before reset and never change (R6, R7, R8, R10). -/
structure Config where
  /-- capacity of each of the four ring buffers, in elements (R6) -/
  N : Nat
  /-- element width (R7) -/
  W : Width
  /-- width in bits of the Skip-Flag Vector register (R8) -/
  V : Nat
  /-- `IDLE_KEEP`: what SF.CONSUME answers when no decision is pending (R10) -/
  idleKeep : Bool
deriving DecidableEq, Repr

/-- The configurations the spec admits: `N >= 1` (R6) and `V >= N + 1` (R8); any other is refused (U12). -/
abbrev Config.WF (c : Config) : Prop := 1 ≤ c.N ∧ c.N + 1 ≤ c.V

/-- The configuration of `State.reset`. DESIGN CHOICE, unsafe (log 1): the spec gives `N` and `W` no value; 4 is the capacity of
its worked scenario S5 and 16 is the width at which every operand bit of the table is legal. `V = N + 1` and `IDLE_KEEP = 0` are
the spec's own defaults (92_eei_decisions.md, "Open parameters"). -/
def Config.reference : Config := { N := 4, W := .w16, V := 5, idleKeep := false }

/-- The free value behind `draw(W)` (R14: "a `W`-bit value chosen by the environment, under no law"). It has no body, so nothing
can be proved of it; DESIGN CHOICE, safe (log 8). -/
opaque Config.freeElement : Nat → Element

end Sys2Proof
end

