-- ==== Sys2Proof/Syntax.lean ====
section
/-!
DEFINITION. The operations the interfaces accept: nine commands and two events (00_scope.md R3, 30_encoding.md R80).
-/
namespace Sys2Proof

/-- The fixed channel set (R9). -/
inductive Channel where
  | uartRx
  | uartTx
  | spiRx
  | spiTx
deriving DecidableEq, Repr

/-- The fixed peripheral set (R9). -/
inductive Peripheral where
  | uart
  | spi
deriving DecidableEq, Repr

/-- One constructor per row of `spec/opcode_table.json` (R80). -/
inductive Instr where
  /-- ENQ.U value (R100) -/
  | enqU (value : Element)
  /-- ENQ.S value, keep (R101) -/
  | enqS (value : Element) (keep : Bool)
  /-- DEQ.U (R102) -/
  | deqU
  /-- DEQ.S (R103) -/
  | deqS
  /-- RST c (R104) -/
  | rst (c : Channel)
  /-- EMPTY c (R105) -/
  | empty (c : Channel)
  /-- FULL c (R106) -/
  | full (c : Channel)
  /-- HOOKSET p (R107) -/
  | hookset (p : Peripheral)
  /-- HOOKCLR p (R108) -/
  | hookclr (p : Peripheral)
  /-- XCHG.U rx (R116) -/
  | xchgU (rx : Element)
  /-- XCHG.S rx (R117) -/
  | xchgS (rx : Element)
deriving DecidableEq, Repr

end Sys2Proof
end

