-- ==== Sys2Proof/WellFormed.lean ====
section
/-!
DEFINITION. Which instruction terms a build of element width `W` can spell.
-/
namespace Sys2Proof

/-- The one check an operand needs beyond its type: an element operand is a `W`-bit integer (`data < 2^W`, R68 (f);
`rx < 2^W`, R72). Channel and peripheral operands are legal by their types (R66). -/
def Instr.wellFormed (w : Width) : Instr → Bool
  | .enqU value => w.fits value
  | .enqS value _ => w.fits value
  | .deqU => true
  | .deqS => true
  | .rst _ => true
  | .empty _ => true
  | .full _ => true
  | .hookset _ => true
  | .hookclr _ => true
  | .xchgU rx => w.fits rx
  | .xchgS rx => w.fits rx

end Sys2Proof
end

