-- ==== Sys2Proof/Decode.lean ====
section
/-!
DEFINITION. The decoders of 30_encoding.md R69 (command words) and R73 (event words), total on any word, and the encoder written
from the same tables (R64, R65, R66, R72, R80).
-/
namespace Sys2Proof

/-! ### Fields of a word (R64, R72) -/

/-- `op`, bits 31:24 (R64, R72). -/
def fieldOp (x : Word32) : BitVec 8 := x.extractLsb' 24 8

/-- `sel`, bits 23:20 (R64, R72). -/
def fieldSel (x : Word32) : BitVec 4 := x.extractLsb' 20 4

/-- `z` of a command word, bits 19:17 (R64). -/
def fieldZ (x : Word32) : BitVec 3 := x.extractLsb' 17 3

/-- `k`, bit 16 (R64). -/
def fieldK (x : Word32) : Bool := x.getLsbD 16

/-- `z` of an event word, bits 19:16 (R72). -/
def fieldEventZ (x : Word32) : BitVec 4 := x.extractLsb' 16 4

/-- `data` of a command word, `rx` of an event word: bits 15:0 (R64, R72). -/
def fieldData (x : Word32) : Element := x.extractLsb' 0 16

/-- Bit 31 tells an event word from a command word (R63). -/
def isEventWord (x : Word32) : Bool := x.getLsbD 31

/-! ### Numbers of channels and peripherals (R66) -/

/-- The channel a `sel` value names; 4 to 15 are reserved (R66). -/
def channelOf (sel : BitVec 4) : Option Channel :=
  match sel.toNat with
  | 0 => some .uartRx
  | 1 => some .uartTx
  | 2 => some .spiRx
  | 3 => some .spiTx
  | _ => none

/-- The peripheral a `sel` value names; 2 to 15 are reserved (R66). -/
def peripheralOf (sel : BitVec 4) : Option Peripheral :=
  match sel.toNat with
  | 0 => some .uart
  | 1 => some .spi
  | _ => none

/-- The number of a channel (R66). -/
def channelNumber : Channel → BitVec 4
  | .uartRx => 0
  | .uartTx => 1
  | .spiRx => 2
  | .spiTx => 3

/-- The number of a peripheral (R66). -/
def peripheralNumber : Peripheral → BitVec 4
  | .uart => 0
  | .spi => 1

/-- The operand check `data < 2^W` (R68 (f), R72). -/
def dataInRange (w : Width) (data : Element) : Bool := decide (data.toNat < 2 ^ w.bits)

/-! ### Decoding -/

/-- The decode procedure of R69; `none` is `Illegal` (R74). -/
def decodeCommand (w : Width) (x : Word32) : Option Instr :=
  if isEventWord x ∨ fieldZ x ≠ 0 then none
  else if fieldOp x = 0x01 then
    if fieldSel x = 1 ∧ fieldK x = false ∧ dataInRange w (fieldData x) then some (.enqU (fieldData x))
    else if fieldSel x = 3 ∧ dataInRange w (fieldData x) then some (.enqS (fieldData x) (fieldK x))
    else none
  else if fieldK x = true ∨ fieldData x ≠ 0 then none
  else if fieldOp x = 0x02 then
    if fieldSel x = 0 then some .deqU else if fieldSel x = 2 then some .deqS else none
  else if fieldOp x = 0x03 then (channelOf (fieldSel x)).map .rst
  else if fieldOp x = 0x04 then (channelOf (fieldSel x)).map .empty
  else if fieldOp x = 0x05 then (channelOf (fieldSel x)).map .full
  else if fieldOp x = 0x06 then (peripheralOf (fieldSel x)).map .hookset
  else if fieldOp x = 0x07 then (peripheralOf (fieldSel x)).map .hookclr
  else none

/-- The event decoder of R73; `none` is a word that spells no event, which the stimulus decoder refuses. -/
def decodeEvent (w : Width) (x : Word32) : Option Instr :=
  if fieldOp x = 0x80 ∧ fieldEventZ x = 0 ∧ dataInRange w (fieldData x) then
    match peripheralOf (fieldSel x) with
    | some .uart => some (.xchgU (fieldData x))
    | some .spi => some (.xchgS (fieldData x))
    | none => none
  else none

/-- A word of a mixed trace: bit 31 tells which of the two decoders reads it (R63). -/
def decodeWord (w : Width) (x : Word32) : Option Instr :=
  if isEventWord x then decodeEvent w x else decodeCommand w x

/-- The instruction the decoder reads from a table word: `nbits` bits of `w`, all bits above them 0, at the width of the reference
configuration (log 19). -/
def decodeTableWord (nbits w : Nat) : Option Instr :=
  decodeWord Config.reference.W (BitVec.ofNat 32 (w % 2 ^ nbits))

/-! ### Encoding -/

/-- A command word, format C (R64): `op` at bit 24, `sel` at bit 20, `z = 0`, `k` at bit 16, `data` at bit 0. -/
def commandWord (op : BitVec 8) (sel : BitVec 4) (k : Bool) (data : Element) : Word32 :=
  op.setWidth 32 <<< 24 ||| sel.setWidth 32 <<< 20 ||| (BitVec.ofBool k).setWidth 32 <<< 16 ||| data.setWidth 32

/-- An event word, format E (R72): `0x80` at bit 24, `sel` at bit 20, `z = 0`, `rx` at bit 0. -/
def eventWord (sel : BitVec 4) (rx : Element) : Word32 :=
  (0x80 : Word32) <<< 24 ||| sel.setWidth 32 <<< 20 ||| rx.setWidth 32

/-- The word that spells an instruction (R65, R66, R77, R80). -/
def encode : Instr → Word32
  | .enqU value => commandWord 0x01 (channelNumber .uartTx) false value
  | .enqS value keep => commandWord 0x01 (channelNumber .spiTx) keep value
  | .deqU => commandWord 0x02 (channelNumber .uartRx) false 0
  | .deqS => commandWord 0x02 (channelNumber .spiRx) false 0
  | .rst c => commandWord 0x03 (channelNumber c) false 0
  | .empty c => commandWord 0x04 (channelNumber c) false 0
  | .full c => commandWord 0x05 (channelNumber c) false 0
  | .hookset p => commandWord 0x06 (peripheralNumber p) false 0
  | .hookclr p => commandWord 0x07 (peripheralNumber p) false 0
  | .xchgU rx => eventWord (peripheralNumber .uart) rx
  | .xchgS rx => eventWord (peripheralNumber .spi) rx

/-! ### The opcode map (R80) -/

/-- One row of the opcode map: a word is that operation exactly when `w & mask = match` and its constraint holds (R80). -/
structure OpcodeRow where
  mnemonic : String
  pattern : Word32
  mask : Word32
  /-- whether the row's constraint is `data < 2^W` (`rx < 2^W`) rather than none -/
  elementOperand : Bool
deriving DecidableEq, Repr

/-- The eleven rows of R80, in its order. -/
def opcodeMap : List OpcodeRow :=
  [ ⟨"ENQ.U", 0x01100000, 0xFFFF0000, true⟩,
    ⟨"ENQ.S", 0x01300000, 0xFFFE0000, true⟩,
    ⟨"DEQ.U", 0x02000000, 0xFFFFFFFF, false⟩,
    ⟨"DEQ.S", 0x02200000, 0xFFFFFFFF, false⟩,
    ⟨"RST", 0x03000000, 0xFFCFFFFF, false⟩,
    ⟨"EMPTY", 0x04000000, 0xFFCFFFFF, false⟩,
    ⟨"FULL", 0x05000000, 0xFFCFFFFF, false⟩,
    ⟨"HOOKSET", 0x06000000, 0xFFEFFFFF, false⟩,
    ⟨"HOOKCLR", 0x07000000, 0xFFEFFFFF, false⟩,
    ⟨"XCHG.U", 0x80000000, 0xFFFF0000, true⟩,
    ⟨"XCHG.S", 0x80100000, 0xFFFF0000, true⟩ ]

/-- A word matches a row (R80). -/
def OpcodeRow.holds (r : OpcodeRow) (w : Width) (x : Word32) : Bool :=
  decide (x &&& r.mask = r.pattern) && (!r.elementOperand || dataInRange w (fieldData x))

/-- The mnemonic of an instruction (R77, R80). -/
def mnemonicOf : Instr → String
  | .enqU _ => "ENQ.U"
  | .enqS _ _ => "ENQ.S"
  | .deqU => "DEQ.U"
  | .deqS => "DEQ.S"
  | .rst _ => "RST"
  | .empty _ => "EMPTY"
  | .full _ => "FULL"
  | .hookset _ => "HOOKSET"
  | .hookclr _ => "HOOKCLR"
  | .xchgU _ => "XCHG.U"
  | .xchgS _ => "XCHG.S"

end Sys2Proof
end

