-- ==== Sys2Proof/Machine/State.lean ====
section
/-!
DEFINITION. The state of FXC (10_state.md R16), the reasons a step can stop, and the state after power-on reset (R42).
-/
namespace Sys2Proof.Machine

/-- One location of a backing array: its element index and the element it holds (20_memory.md R46). -/
abbrev Cell := Nat × Element

/-- A backing array as a list of cells with strictly rising indices. A location that is not listed was never written since reset
and has no value (R62; DESIGN CHOICE, safe: log 3). -/
abbrev Memory := List Cell

/-- The state of one channel (R16). -/
structure Ring where
  /-- `buf[c]`, the backing array (R17) -/
  buf : Memory
  /-- `rd[c]`, the index RB.POP reads next (R19) -/
  rd : Nat
  /-- `wr[c]`, the index RB.PUSH writes next (R19) -/
  wr : Nat
  /-- `cnt[c]`, the occupancy (R21) -/
  cnt : Nat
deriving DecidableEq, Repr

/-- The state of one peripheral's driver (R16, R113). -/
structure Driver where
  /-- `slot[p]`, the element in the exchange slot (R18) -/
  slot : Element
  /-- `loaded[p]` (R25) -/
  loaded : Bool
  /-- `notify[p]` (R26) -/
  notify : Bool
  /-- `hook[p]` (R27) -/
  hook : Bool
deriving DecidableEq, Repr

/-- The Skip-Flag Vector of the SPI (R28, R29). -/
structure SkipFlags where
  /-- `vec`, the `V`-bit unsigned register; bit `k` is `vec.testBit k` (R28; a natural with its range as an invariant, log 5) -/
  vec : Nat
  /-- `pos`, the position counter (R29) -/
  pos : Nat
deriving DecidableEq, Repr

/-- What the environment presents in one system-clock period (R12, R53, R159): at most one exchange-complete strobe per peripheral,
written as its event word (R72; at most one, R130 E2), at most one command word (R155), or a power-on reset. The MODEL's own
(log 6). -/
structure Period where
  /-- power-on reset is asserted: nothing else of this period is accepted (R159) -/
  reset : Bool := false
  /-- the event word of the SPI strobe -/
  spi : Option Word32 := none
  /-- the event word of the UART strobe -/
  uart : Option Word32 := none
  /-- the command word -/
  command : Option Word32 := none
deriving DecidableEq, Repr

/-- What FXC gives back (R12, R14). -/
inductive Output where
  /-- the response word of a command (R70) -/
  | response (word : Word32)
  /-- `TX_OUT(p, v)`: peripheral `p` has finished shifting out `v` (R131) -/
  | txOut (p : Peripheral) (v : Element)
  /-- `HOOK(p)`: the handler of `p` invokes the user hook (R132) -/
  | hook (p : Peripheral)
deriving DecidableEq, Repr

/-- The machine: the spec's whole state (R16), its configuration (R41), and the three fields of the model's own that carry what the
environment presents and what FXC gives back. -/
structure State where
  /-- the parameters (R6 to R10); no step writes them -/
  cfg : Config
  /-- channel UART_RX -/
  uartRx : Ring
  /-- channel UART_TX -/
  uartTx : Ring
  /-- channel SPI_RX -/
  spiRx : Ring
  /-- channel SPI_TX -/
  spiTx : Ring
  /-- peripheral UART -/
  uart : Driver
  /-- peripheral SPI -/
  spi : Driver
  /-- the Skip-Flag Vector (SPI only) -/
  skip : SkipFlags
  /-- the model's own: how many `draw(W)` values have been taken (log 8) -/
  draws : Nat
  /-- the model's own: what the environment presents, period by period (R12, R41; log 6) -/
  schedule : List Period
  /-- the model's own: every response and output record so far, oldest first (R14, R177; log 7) -/
  out : List Output
deriving DecidableEq, Repr

/-- Why the machine stops. No fault is the spec's: its failures are response statuses (R140). None can arise in a well-formed
state (R44). -/
inductive Fault where
  /-- Raised by SF.RECORD when `pos = V` (R92: "must treat it as a fault of the model, not give it a value"; D10, U2). Safe. -/
  | recordOverflow
  /-- Raised by a memory access of RB.PUSH or RB.POP at `(c, i)` with `i >= N`: the array has no such location (R46, R47). Safe. -/
  | noSuchLocation (c : Channel) (i : Nat)
  /-- Raised by RB.POP at a location nothing has written (R62: it has no value; log 3). Safe. -/
  | deadLocation (c : Channel) (i : Nat)
deriving DecidableEq, Repr

/-- Why a step has no meaning. -/
inductive Refusal where
  /-- Raised by `exec` for an instruction that has no meaning yet. Safe. -/
  | notModelled (mnemonic : String)
  /-- Raised by `step` when `N = 0` or `V < N + 1`: such a configuration is refused (R6, R8, U12). Safe. -/
  | configuration
  /-- Raised by `step` for the word of a strobe that spells no event of that peripheral: the stimulus is rejected and FXC takes
  no step (R73, D34, U13, R130 E4). Safe. -/
  | malformedEvent (word : Word32)
deriving DecidableEq, Repr

/-- A ring buffer after power-on reset (R42): empty, both indices 0, nothing written. -/
def Ring.reset : Ring := { buf := [], rd := 0, wr := 0, cnt := 0 }

/-- A driver after power-on reset (R42). The slot's data is unspecified there; the 0 is a DESIGN CHOICE, unsafe (log 2). -/
def Driver.reset : Driver := { slot := 0, loaded := false, notify := false, hook := false }

/-- The state after power-on reset of a block with configuration `c` (R42, R159), with nothing presented yet. -/
def State.resetWith (c : Config) : State :=
  { cfg := c
    uartRx := Ring.reset
    uartTx := Ring.reset
    spiRx := Ring.reset
    spiTx := Ring.reset
    uart := Driver.reset
    spi := Driver.reset
    skip := { vec := 0, pos := 0 }
    draws := 0
    schedule := []
    out := [] }

/-- The state after power-on reset at the reference configuration (R42; log 1). -/
def State.reset : State := State.resetWith Config.reference

end Sys2Proof.Machine
end

