-- ==== Sys2Proof/Machine/Operands.lean ====
section
/-!
DEFINITION. The operand forms: channels, peripherals, and the state each of them names (00_scope.md R9, 10_state.md R16).
-/
namespace Sys2Proof.Machine

/-- `periph(c)` (R9). -/
def periph : Channel → Peripheral
  | .uartRx => .uart
  | .uartTx => .uart
  | .spiRx => .spi
  | .spiTx => .spi

/-- `TX(p)` (R9). -/
def txOf : Peripheral → Channel
  | .uart => .uartTx
  | .spi => .spiTx

/-- `RX(p)` (R9). -/
def rxOf : Peripheral → Channel
  | .uart => .uartRx
  | .spi => .spiRx

/-- `c` is a TX channel (R9). -/
def isTx : Channel → Bool
  | .uartRx => false
  | .uartTx => true
  | .spiRx => false
  | .spiTx => true

/-- The state of channel `c` (R16). -/
def State.ring (s : State) : Channel → Ring
  | .uartRx => s.uartRx
  | .uartTx => s.uartTx
  | .spiRx => s.spiRx
  | .spiTx => s.spiTx

/-- `s` with channel `c` replaced. -/
def State.setRing (s : State) (c : Channel) (r : Ring) : State :=
  match c with
  | .uartRx => { s with uartRx := r }
  | .uartTx => { s with uartTx := r }
  | .spiRx => { s with spiRx := r }
  | .spiTx => { s with spiTx := r }

/-- The state of the driver of peripheral `p` (R113). -/
def State.driver (s : State) : Peripheral → Driver
  | .uart => s.uart
  | .spi => s.spi

/-- `s` with the driver of `p` replaced. -/
def State.setDriver (s : State) (p : Peripheral) (d : Driver) : State :=
  match p with
  | .uart => { s with uart := d }
  | .spi => { s with spi := d }

/-- `s` with the Skip-Flag Vector replaced. -/
def State.setSkip (s : State) (f : SkipFlags) : State := { s with skip := f }

/-- `s` with one more output record (R14: "append an output record for this step"). -/
def State.emit (s : State) (o : Output) : State := { s with out := s.out ++ [o] }

/-- The peripheral whose driver instance an operation belongs to (R113, R143). -/
def ownerOf : Instr → Peripheral
  | .enqU _ => .uart
  | .enqS _ _ => .spi
  | .deqU => .uart
  | .deqS => .spi
  | .rst c => periph c
  | .empty c => periph c
  | .full c => periph c
  | .hookset p => p
  | .hookclr p => p
  | .xchgU _ => .uart
  | .xchgS _ => .spi

end Sys2Proof.Machine
end

