-- ==== Sys2Proof/Machine/Flags.lean ====
section
/-!
DEFINITION. The one-bit conditions the rules test (10_state.md R37) and the derived driver state (R34).
-/
namespace Sys2Proof.Machine

/-- RB.EMPTY: `EMPTY(c) := (cnt[c] = 0)` (R37, R83). -/
def rbEmpty (r : Ring) : Bool := r.cnt == 0

/-- RB.FULL: `FULL(c) := (cnt[c] = N)` (R37, R84). -/
def rbFull (N : Nat) (r : Ring) : Bool := r.cnt == N

/-- `pos = 0`: no decision is pending (R37, R93). -/
def noDecision (f : SkipFlags) : Bool := f.pos == 0

/-- The condition of the ENQ fast path: nothing staged and the ring buffer empty (R100, R101). -/
def fastPath (d : Driver) (tx : Ring) : Bool := !d.loaded && rbEmpty tx

/-- The three driver states (R34, R114). -/
inductive DriverState where
  | idle
  | loaded
  | draining
deriving DecidableEq, Repr

/-- `fsm[p]` from `loaded[p]` and `cnt[TX(p)]` (R34, D27). -/
def driverState (d : Driver) (tx : Ring) : DriverState :=
  if d.loaded then if tx.cnt = 0 then .loaded else .draining else .idle

/-- `fsm[p]` (R34). -/
def State.fsm (s : State) (p : Peripheral) : DriverState := driverState (s.driver p) (s.ring (txOf p))

/-- Both drivers are Idle (R177). -/
def State.quiescent (s : State) : Bool := s.fsm .uart == .idle && s.fsm .spi == .idle

end Sys2Proof.Machine
end

