-- ==== Sys2Proof/Machine/Ops.lean ====
section
/-!
DEFINITION. The named operations: memory (20_memory.md R47), the seven micro-operations (40_ring_buffer.md, 41_skip_flag_vector.md),
responses and failures (30_encoding.md R70, 60_exceptions.md R136 to R138), free values (00_scope.md R14), the parts of
a handler step (43_exchange_driver.md R116, R117), and power-on reset (70_reset_and_hazards.md R159).
-/
namespace Sys2Proof.Machine

/-! ### Backing arrays -/

/-- The element at index `i`, if one was ever written (R47, R62). -/
def Memory.read : Memory → Nat → Option Element
  | [], _ => none
  | (a, x) :: m, i => if a = i then some x else Memory.read m i

/-- The array with element `v` at index `i`, in canonical form (R47). -/
def Memory.write : Memory → Nat → Element → Memory
  | [], i, v => [(i, v)]
  | (a, x) :: m, i, v =>
    if i < a then (i, v) :: (a, x) :: m
    else if i = a then (i, v) :: m
    else (a, x) :: Memory.write m i v

/-- The canonical form: indices strictly rising, so that equal arrays are equal lists. An unlisted location has no value, so no
entry equals what an unlisted one reads as. -/
abbrev Memory.wf (m : Memory) : Prop := m.Pairwise (fun a b => a.1 < b.1)

/-! ### Ring buffer micro-operations -/

/-- How RB.PUSH ends (R81). -/
inductive PushResult where
  | ok (r : Ring)
  | bufferFull
  | stop (f : Fault)
deriving DecidableEq, Repr

/-- How RB.POP ends (R82). -/
inductive PopResult where
  | ok (v : Element) (r : Ring)
  | bufferEmpty
  | stop (f : Fault)
deriving DecidableEq, Repr

/-- Index advance: `(i + 1) mod N` (R19, R86). -/
def nextIndex (N i : Nat) : Nat := (i + 1) % N

/-- RB.PUSH(c, v) (R81). `c` only names the channel in a fault. -/
def rbPush (N : Nat) (c : Channel) (v : Element) (r : Ring) : PushResult :=
  if rbFull N r then .bufferFull
  else if r.wr < N then
    .ok { r with buf := r.buf.write r.wr v, wr := nextIndex N r.wr, cnt := r.cnt + 1 }
  else .stop (.noSuchLocation c r.wr)

/-- RB.POP(c) (R82). The stored element stays in place (R51, R62). -/
def rbPop (N : Nat) (c : Channel) (r : Ring) : PopResult :=
  if rbEmpty r then .bufferEmpty
  else if r.rd < N then
    match r.buf.read r.rd with
    | some v => .ok v { r with rd := nextIndex N r.rd, cnt := r.cnt - 1 }
    | none => .stop (.deadLocation c r.rd)
  else .stop (.noSuchLocation c r.rd)

/-- RB.RESET(c) (R85). The array is not cleared (R62, D28). -/
def rbReset (r : Ring) : Ring := { r with rd := 0, wr := 0, cnt := 0 }

/-! ### Skip-Flag Vector micro-operations -/

/-- `vec` with bit `i` written (set or cleared), the other bits unchanged (R92). -/
def writeBit (vec i : Nat) (b : Bool) : Nat :=
  if vec.testBit i = b then vec else vec ^^^ 2 ^ i

/-- SF.RECORD(keep) (R92). -/
def sfRecord (V : Nat) (keep : Bool) (f : SkipFlags) : Except Fault SkipFlags :=
  if f.pos < V then .ok { vec := writeBit f.vec f.pos keep, pos := f.pos + 1 }
  else .error .recordOverflow

/-- SF.CONSUME() (R93): the bit returned and the vector after. -/
def sfConsume (idleKeep : Bool) (f : SkipFlags) : Bool × SkipFlags :=
  if noDecision f then (idleKeep, f)
  else (f.vec.testBit 0, { vec := f.vec >>> 1, pos := f.pos - 1 })

/-! ### Responses and failures -/

/-- The result codes (R15, R71). -/
inductive Status where
  | ok
  | bufferFull
  | bufferEmpty
  | illegal
deriving DecidableEq, Repr

/-- The numeric code of a status (R71). -/
def statusCode : Status → BitVec 2
  | .ok => 0
  | .bufferFull => 1
  | .bufferEmpty => 2
  | .illegal => 3

/-- The response word, format R (R70): `status` at bit 16, `data` at bit 0, the other bits 0. -/
def responseWord (st : Status) (data : Element) : Word32 :=
  (statusCode st).setWidth 32 <<< 16 ||| data.setWidth 32

/-- `respond(status, data)`: complete the command (R14, R99). -/
def respond (st : Status) (data : Element) (s : State) : Host.Outcome State Fault Refusal :=
  .next (s.emit (.response (responseWord st data)))

/-- `raise`: end the command with a failing status, every part of the state as it was at the start of the step `s` (R14, R136, R137,
R138). Nothing is saved and nothing is entered, so nothing is there to return from (R146, R148); the data field is 0 (D16). -/
def raiseStatus (st : Status) (s : State) : Host.Outcome State Fault Refusal := respond st 0 s

/-- The data of an EMPTY or FULL answer (R70). -/
def answerData (b : Bool) : Element := if b then 1 else 0

/-! ### Free values -/

/-- A value of `W` bits out of 16 (R7). -/
def truncateTo (w : Width) (x : Element) : Element :=
  match w with
  | .w8 => x &&& 0x00FF
  | .w16 => x

/-- `draw(W)`: the `n`-th value the environment chooses, under no law (R14). -/
def drawElement (w : Width) (n : Nat) : Element := truncateTo w (Config.freeElement n)

/-! ### Enqueue and dequeue, common to both peripherals (R100 to R103) -/

/-- How the transition "foreground enqueue" ends (R100, R101). -/
inductive EnqueueResult where
  | accepted (s : State)
  | bufferFull
  | stop (f : Fault)
deriving DecidableEq, Repr

/-- The fast path: stage the element in the exchange slot; `notify` is not written (R100, R101). -/
def stageSlot (p : Peripheral) (v : Element) (s : State) : State :=
  s.setDriver p { s.driver p with slot := v, loaded := true }

/-- Foreground enqueue on `TX(p)`: fast path, or RB.PUSH and `notify` (R100, R101). -/
def enqueue (p : Peripheral) (v : Element) (s : State) : EnqueueResult :=
  if fastPath (s.driver p) (s.ring (txOf p)) then .accepted (stageSlot p v s)
  else
    match rbPush s.cfg.N (txOf p) v (s.ring (txOf p)) with
    | .ok r => .accepted ((s.setRing (txOf p) r).setDriver p { s.driver p with notify := true })
    | .bufferFull => .bufferFull
    | .stop f => .stop f

/-- Foreground dequeue from `RX(p)` (R102, R103). -/
def dequeue (p : Peripheral) (s : State) : Host.Outcome State Fault Refusal :=
  match rbPop s.cfg.N (rxOf p) (s.ring (rxOf p)) with
  | .ok v r => respond .ok v (s.setRing (rxOf p) r)
  | .bufferEmpty => raiseStatus .bufferEmpty s
  | .stop f => .fault f

/-! ### The parts of a handler step (R116, R117) -/

/-- The wire record of a loaded exchange: the element just sent (R131). -/
def emitSent (p : Peripheral) (s : State) : State := s.emit (.txOut p (s.driver p).slot)

/-- The wire record of an idle SPI exchange: `TX_OUT(SPI, draw(W))` (R121, R131). -/
def emitDrawn (s : State) : State :=
  { s.emit (.txOut .spi (drawElement s.cfg.W s.draws)) with draws := s.draws + 1 }

/-- Harvest: if `keep`, RB.PUSH of the received element on `RX(p)`, its `BufferFull` ignored (R116, R117, R120). -/
def harvest (p : Peripheral) (keep : Bool) (rx : Element) (s : State) : Except Fault State :=
  if keep then
    match rbPush s.cfg.N (rxOf p) rx (s.ring (rxOf p)) with
    | .ok r => .ok (s.setRing (rxOf p) r)
    | .bufferFull => .ok s
    | .stop f => .error f
  else .ok s

/-- Refill: if the TX ring buffer holds an element, RB.POP it into the slot and set `loaded` and `notify`; otherwise clear both, which
leaves the channel Idle (R116, R117, C4). -/
def refill (p : Peripheral) (s : State) : Except Fault State :=
  match rbPop s.cfg.N (txOf p) (s.ring (txOf p)) with
  | .ok v r =>
    .ok ((s.setRing (txOf p) r).setDriver p { s.driver p with slot := v, loaded := true, notify := true })
  | .bufferEmpty => .ok (s.setDriver p { s.driver p with loaded := false, notify := false })
  | .stop f => .error f

/-- The hook pulse, last of all (R118, R132). -/
def fireHook (p : Peripheral) (s : State) : State :=
  if (s.driver p).hook then s.emit (.hook p) else s

/-- Harvest, refill, hook: what both events do after the wire record and the decision (R118). -/
def finishExchange (p : Peripheral) (keep : Bool) (rx : Element) (s : State) : Host.Outcome State Fault Refusal :=
  match harvest p keep rx s with
  | .ok h =>
    match refill p h with
    | .ok r => .next (fireHook p r)
    | .error f => .fault f
  | .error f => .fault f

/-! ### Power-on reset (R158 (a), R159) -/

/-- Power-on reset of the whole block from any state: every control field 0, the arrays without values, the slot data unspecified
(two free values, log 9). The configuration stays; so do the model's own fields, but for the count of free values. -/
def powerOnReset (s : State) : State :=
  { State.resetWith s.cfg with
    uart := { Driver.reset with slot := drawElement s.cfg.W s.draws }
    spi := { Driver.reset with slot := drawElement s.cfg.W (s.draws + 1) }
    draws := s.draws + 2
    schedule := s.schedule
    out := s.out }

end Sys2Proof.Machine
end

