-- ==== Sys2Proof/Machine/Control.lean ====
section
/-!
DEFINITION. The meanings of the commands that reset, ask and register (42_channel_commands.md R104 to R108), and of a word that spells
no command (R109).
-/
namespace Sys2Proof.Machine

/-- What RST adds for a TX channel: the driver returns to Idle; for SPI_TX the vector follows (R104, D12). `slot` and `hook` stay. -/
def resetDriverOf (c : Channel) (s : State) : State :=
  match c with
  | .uartRx => s
  | .uartTx => s.setDriver .uart { s.driver .uart with loaded := false, notify := false }
  | .spiRx => s
  | .spiTx =>
    (s.setDriver .spi { s.driver .spi with loaded := false, notify := false }).setSkip { vec := 0, pos := 0 }

/-- RST c (R104, R160). -/
def execRst (c : Channel) (s : State) : Host.Outcome State Fault Refusal :=
  respond .ok 0 (resetDriverOf c (s.setRing c (rbReset (s.ring c))))

/-- EMPTY c (R105). -/
def execEmpty (c : Channel) (s : State) : Host.Outcome State Fault Refusal :=
  respond .ok (answerData (rbEmpty (s.ring c))) s

/-- FULL c (R106). -/
def execFull (c : Channel) (s : State) : Host.Outcome State Fault Refusal :=
  respond .ok (answerData (rbFull s.cfg.N (s.ring c))) s

/-- HOOKSET p (R107). -/
def execHookset (p : Peripheral) (s : State) : Host.Outcome State Fault Refusal :=
  respond .ok 0 (s.setDriver p { s.driver p with hook := true })

/-- HOOKCLR p (R108). -/
def execHookclr (p : Peripheral) (s : State) : Host.Outcome State Fault Refusal :=
  respond .ok 0 (s.setDriver p { s.driver p with hook := false })

/-- A command word that spells no command: status `Illegal`, data 0, no state change (R74, R109, R138). -/
def execIllegal (s : State) : Host.Outcome State Fault Refusal := raiseStatus .illegal s

end Sys2Proof.Machine
end

