-- ==== Sys2Proof/Machine/Exchange.lean ====
section
/-!
DEFINITION. The meanings of the two exchange-complete events (43_exchange_driver.md R116, R117), total on every state whose ring
buffers are well-formed, the unreachable orphan state included (R124).
-/
namespace Sys2Proof.Machine

/-- XCHG.U rx (R116, R122): the UART sends nothing, and records nothing, when nothing is loaded. -/
def execXchgU (rx : Element) (s : State) : Host.Outcome State Fault Refusal :=
  finishExchange .uart true rx (if s.uart.loaded then emitSent .uart s else s)

/-- XCHG.S rx (R117, R121): the decision is consumed first; it governs the companion of the element that was in the slot. -/
def execXchgS (rx : Element) (s : State) : Host.Outcome State Fault Refusal :=
  let sent := if s.spi.loaded then emitSent .spi s else emitDrawn s
  let consumed := sfConsume s.cfg.idleKeep s.skip
  finishExchange .spi consumed.1 rx (sent.setSkip consumed.2)

end Sys2Proof.Machine
end

