-- ==== Sys2Proof/Machine/Queue.lean ====
section
/-!
DEFINITION. The meanings of the commands that move elements: ENQ.U, ENQ.S, DEQ.U, DEQ.S (42_channel_commands.md R100 to R103).
-/
namespace Sys2Proof.Machine

/-- ENQ.U value (R100). -/
def execEnqU (value : Element) (s : State) : Host.Outcome State Fault Refusal :=
  match enqueue .uart value s with
  | .accepted t => respond .ok 0 t
  | .bufferFull => raiseStatus .bufferFull s
  | .stop f => .fault f

/-- ENQ.S value, keep (R101): the decision is recorded on both paths, and only when the element is accepted (D30, D31). -/
def execEnqS (value : Element) (keep : Bool) (s : State) : Host.Outcome State Fault Refusal :=
  match enqueue .spi value s with
  | .accepted t =>
    match sfRecord t.cfg.V keep t.skip with
    | .ok f => respond .ok 0 (t.setSkip f)
    | .error f => .fault f
  | .bufferFull => raiseStatus .bufferFull s
  | .stop f => .fault f

/-- DEQ.U (R102). -/
def execDeqU (s : State) : Host.Outcome State Fault Refusal := dequeue .uart s

/-- DEQ.S (R103). -/
def execDeqS (s : State) : Host.Outcome State Fault Refusal := dequeue .spi s

end Sys2Proof.Machine
end

