-- ==== Sys2Proof/Machine/Dispatch.lean ====
section
/-!
DEFINITION. One arm per row of the opcode map (30_encoding.md R80), each one call of the row's meaning.
-/
namespace Sys2Proof.Machine

def exec (i : Instr) (s : State) : Host.Outcome State Fault Refusal :=
  match i with
  | .enqU value => Sys2Proof.Machine.execEnqU value s
  | .enqS value keep => Sys2Proof.Machine.execEnqS value keep s
  | .deqU => Sys2Proof.Machine.execDeqU s
  | .deqS => Sys2Proof.Machine.execDeqS s
  | .rst c => Sys2Proof.Machine.execRst c s
  | .empty c => Sys2Proof.Machine.execEmpty c s
  | .full c => Sys2Proof.Machine.execFull c s
  | .hookset p => Sys2Proof.Machine.execHookset p s
  | .hookclr p => Sys2Proof.Machine.execHookclr p s
  | .xchgU rx => Sys2Proof.Machine.execXchgU rx s
  | .xchgS rx => Sys2Proof.Machine.execXchgS rx s

end Sys2Proof.Machine
end

