-- ==== Sys2Proof/Machine/Fetch.lean ====
section
/-!
DEFINITION. Which operation comes next. FXC fetches no instruction (10_state.md R20): the environment presents commands and events,
period by period; inside a period the SPI event goes first, then the UART event, then the command (20_memory.md R53, R144).
-/
namespace Sys2Proof.Machine

/-- The next thing the environment presents. -/
inductive Presented where
  /-- nothing is presented any more -/
  | nothing
  /-- power-on reset (R159) -/
  | reset
  /-- the strobe of `p`, written as its event word (R72) -/
  | event (p : Peripheral) (word : Word32)
  /-- a command word (R64) -/
  | command (word : Word32)
deriving DecidableEq, Repr

/-- The schedule with `p` as the rest of the current period; a period that presents nothing more is over. -/
def continuePeriod (p : Period) (rest : List Period) : List Period :=
  if p.spi = none ∧ p.uart = none ∧ p.command = none then rest else p :: rest

/-- Take the next thing out of the schedule; a period that presents nothing more is over. A period with reset asserted presents
nothing else: "While reset is asserted FXC accepts no command and no event" (R159). -/
def takeNext : List Period → Presented × List Period
  | [] => (.nothing, [])
  | p :: rest =>
    if p.reset then (.reset, rest)
    else
      match p.spi with
      | some x => (.event .spi x, continuePeriod { p with spi := none } rest)
      | none =>
        match p.uart with
        | some x => (.event .uart x, continuePeriod { p with uart := none } rest)
        | none =>
          match p.command with
          | some x => (.command x, rest)
          | none => takeNext rest

/-- The peripheral whose event an instruction is; `none` for a command. -/
def eventOf : Instr → Option Peripheral
  | .enqU _ => none
  | .enqS _ _ => none
  | .deqU => none
  | .deqS => none
  | .rst _ => none
  | .empty _ => none
  | .full _ => none
  | .hookset _ => none
  | .hookclr _ => none
  | .xchgU _ => some .uart
  | .xchgS _ => some .spi

/-- The event a strobe of `p` delivers: the word must spell the event of that peripheral (R12 (b), R73, R143). -/
def decodeStrobe (w : Width) (p : Peripheral) (x : Word32) : Option Instr :=
  match decodeEvent w x with
  | some i => if eventOf i = some p then some i else none
  | none => none

/-- What the next step is to do, and the state in which it does it (the word taken from the schedule). -/
inductive Fetched where
  /-- nothing is presented: FXC takes no step on its own (R123) -/
  | idle
  | reset (s : State)
  | run (i : Instr) (s : State)
  /-- a command word that spells no command (R74) -/
  | illegal (s : State)
  /-- a strobe word that spells no event of its peripheral (R73) -/
  | malformed (word : Word32)
deriving DecidableEq, Repr

/-- `s` with another schedule. -/
def State.setSchedule (s : State) (q : List Period) : State := { s with schedule := q }

/-- Take the next word and decode it. -/
def fetch (s : State) : Fetched :=
  let next := takeNext s.schedule
  match next.1 with
  | .nothing => .idle
  | .reset => .reset (s.setSchedule next.2)
  | .event p x =>
    match decodeStrobe s.cfg.W p x with
    | some i => .run i (s.setSchedule next.2)
    | none => .malformed x
  | .command x =>
    match decodeCommand s.cfg.W x with
    | some i => .run i (s.setSchedule next.2)
    | none => .illegal (s.setSchedule next.2)

/-- A period that presents one word: a word with bit 31 set on the strobe its `sel` names (on the SPI's, where it names none),
any other on the command port (R63, R72). -/
def presentWord (x : Word32) : Period :=
  if isEventWord x then
    if fieldSel x = peripheralNumber .uart then { uart := some x } else { spi := some x }
  else { command := some x }

end Sys2Proof.Machine
end

