-- ==== Sys2Proof/Machine/Step.lean ====
section
/-!
DEFINITION. One step of FXC: one command from decode to response, or the handling of one event (20_memory.md R52), or a power-on
reset (70_reset_and_hazards.md R159).
-/
namespace Sys2Proof.Machine

/-- One atomic step. A configuration the spec does not admit is refused (U12); with nothing presented nothing happens (R123, R157). -/
def step (s : State) : Host.Outcome State Fault Refusal :=
  if s.cfg.WF then
    match fetch s with
    | .idle => .next s
    | .reset t => .next (powerOnReset t)
    | .run i t => exec i t
    | .illegal t => execIllegal t
    | .malformed x => .refused (.malformedEvent x)
  else .refused .configuration

/-- `s` with one word presented before anything else: a command word on the command port, an event word (bit 31 set) on its
strobe (R63; log 6). -/
def State.withFetchWord (s : State) (nbits w : Nat) : State :=
  s.setSchedule (presentWord (BitVec.ofNat 32 (w % 2 ^ nbits)) :: s.schedule)

end Sys2Proof.Machine
end

