-- ==== Sys2Proof/Machine/Views.lean ====
section
/-!
DEFINITION. What the state means: the contents of the ring buffers and of the vector, the in-flight queue (10_state.md R24, R30, R33),
what each party can observe (R45), and the records of a run (43_exchange_driver.md R131, R132, 70_reset_and_hazards.md R177).
-/
namespace Sys2Proof.Machine

/-- `queue(c)`: the elements of the live window, oldest first (R24). -/
def Ring.queue (N : Nat) (r : Ring) : List Element :=
  (List.range r.cnt).filterMap (fun k => r.buf.read ((r.rd + k) % N))

/-- `queue(c)` (R24). -/
def State.queue (s : State) (c : Channel) : List Element := (s.ring c).queue s.cfg.N

/-- The element at `(c, i)`, if one was ever written: the model's read of one location (R47). -/
def State.readElement (s : State) (c : Channel) (i : Nat) : Option Element := (s.ring c).buf.read i

/-- `decisions`: the pending decision bits, next to be consumed first (R30). -/
def SkipFlags.decisions (f : SkipFlags) : List Bool := (List.range f.pos).map (fun k => f.vec.testBit k)

/-- The staged element of `p`, if `loaded[p]` (R25). -/
def Driver.staged (d : Driver) : List Element := if d.loaded then [d.slot] else []

/-- `[slot[p]] ++ queue(TX(p))`: the elements accepted and not yet completely sent (R33, R126). -/
def State.inflight (s : State) (p : Peripheral) : List Element := (s.driver p).staged ++ s.queue (txOf p)

/-- `inflight`: the (value, keep) pairs of the SPI (R33). -/
def State.inflightPairs (s : State) : List (Element × Bool) := (s.inflight .spi).zip s.skip.decisions

/-- What can be observed of a driver: the slot only while it is loaded (R45). -/
structure DriverView where
  slot : Option Element
  loaded : Bool
  notify : Bool
  hook : Bool
deriving DecidableEq, Repr

/-- The view of a driver (R45). -/
def Driver.view (d : Driver) : DriverView :=
  { slot := if d.loaded then some d.slot else none, loaded := d.loaded, notify := d.notify, hook := d.hook }

/-- What can be observed of the block: nothing of `rd`, `wr`, `vec`, `pos` or the dead locations (R45). -/
structure Observables where
  uartRx : List Element
  uartTx : List Element
  spiRx : List Element
  spiTx : List Element
  decisions : List Bool
  uart : DriverView
  spi : DriverView
deriving DecidableEq, Repr

/-- The observable views of a state (R45). -/
def State.observables (s : State) : Observables :=
  { uartRx := s.queue .uartRx
    uartTx := s.queue .uartTx
    spiRx := s.queue .spiRx
    spiTx := s.queue .spiTx
    decisions := s.skip.decisions
    uart := s.uart.view
    spi := s.spi.view }

/-- The responses among the records, in order (R177). -/
def responsesOf (o : List Output) : List Word32 :=
  o.filterMap (fun x => match x with | .response w => some w | .txOut _ _ => none | .hook _ => none)

/-- The wire record of `p`: the values of the `TX_OUT(p, ·)` records, in order (R131). -/
def wireRecordOf (p : Peripheral) (o : List Output) : List Element :=
  o.filterMap (fun x => match x with | .response _ => none | .txOut q v => if q = p then some v else none | .hook _ => none)

/-- The number of `HOOK(p)` pulses among the records (R132, R177). -/
def hookPulsesOf (p : Peripheral) (o : List Output) : Nat := o.count (.hook p)

/-- The records that a step from `s` to `t` appended. -/
def newOutputs (s t : State) : List Output := t.out.drop s.out.length

/-- The element location an operation would store at: `(c, wr[c])`, taken before the increment (R86). -/
def State.storeAddress (s : State) (c : Channel) : Channel × Nat := (c, (s.ring c).wr)

/-- Two states that no sequence of operations tells apart (R45): the same observable views, and the same configuration, records, future
inputs and position in the sequence of free values. -/
abbrev State.Indistinguishable (s t : State) : Prop :=
  s.observables = t.observables ∧ s.cfg = t.cfg ∧ s.out = t.out ∧ s.schedule = t.schedule ∧ s.draws = t.draws

/-- The location an operation stores an element at, if it stores one: the TX ring's write index for an ENQ that takes the slow path and
finds room, the RX ring's for an event whose element is kept and finds room (R48, R86). -/
def State.storeAddressOf (s : State) : Instr → Option (Channel × Nat)
  | .enqU _ => if fastPath s.uart s.uartTx || rbFull s.cfg.N s.uartTx then none else some (s.storeAddress .uartTx)
  | .enqS _ _ => if fastPath s.spi s.spiTx || rbFull s.cfg.N s.spiTx then none else some (s.storeAddress .spiTx)
  | .xchgU _ => if rbFull s.cfg.N s.uartRx then none else some (s.storeAddress .uartRx)
  | .xchgS _ =>
    if (sfConsume s.cfg.idleKeep s.skip).1 && !rbFull s.cfg.N s.spiRx then some (s.storeAddress .spiRx) else none
  | .deqU => none
  | .deqS => none
  | .rst _ => none
  | .empty _ => none
  | .full _ => none
  | .hookset _ => none
  | .hookclr _ => none

end Sys2Proof.Machine
end

