-- ==== Sys2Proof/Machine/History.lean ====
section
/-!
DEFINITION. Sequences of operations and what passes through them: the terms of the FIFO, alignment, wire-order and companion laws
(40_ring_buffer.md R87, R88, 41_skip_flag_vector.md R95, 43_exchange_driver.md R119, R126, R127).
-/
namespace Sys2Proof.Machine

/-! ### Sequences of micro-operations -/

/-- A call of RB.PUSH or RB.POP. -/
inductive RingCall where
  | push (v : Element)
  | pop
deriving DecidableEq, Repr

/-- What a sequence of ring-buffer calls did: the values of its successful pushes, the values its successful pops returned, and the ring
buffer after. A failed push or pop contributes nothing (R88). -/
structure RingHistory where
  pushed : List Element
  popped : List Element
  final : Ring
deriving DecidableEq, Repr

/-- Perform a sequence of ring-buffer calls on channel `c`. -/
def runRing (N : Nat) (c : Channel) : List RingCall → Ring → Except Fault RingHistory
  | [], r => .ok { pushed := [], popped := [], final := r }
  | .push v :: calls, r =>
    match rbPush N c v r with
    | .ok r' => (runRing N c calls r').map (fun h => { h with pushed := v :: h.pushed })
    | .bufferFull => runRing N c calls r
    | .stop f => .error f
  | .pop :: calls, r =>
    match rbPop N c r with
    | .ok v r' => (runRing N c calls r').map (fun h => { h with popped := v :: h.popped })
    | .bufferEmpty => runRing N c calls r
    | .stop f => .error f

/-- A call of SF.RECORD or SF.CONSUME. -/
inductive SkipCall where
  | record (keep : Bool)
  | consume
deriving DecidableEq, Repr

/-- What a sequence of vector calls did: the bits recorded, the bits returned by SF.CONSUME with `pos > 0`, and the vector after. -/
structure SkipHistory where
  recorded : List Bool
  consumed : List Bool
  final : SkipFlags
deriving DecidableEq, Repr

/-- Perform a sequence of vector calls (R95). -/
def runSkip (V : Nat) (idleKeep : Bool) : List SkipCall → SkipFlags → Except Fault SkipHistory
  | [], f => .ok { recorded := [], consumed := [], final := f }
  | .record b :: calls, f =>
    match sfRecord V b f with
    | .ok g => (runSkip V idleKeep calls g).map (fun h => { h with recorded := b :: h.recorded })
    | .error e => .error e
  | .consume :: calls, f =>
    if noDecision f then runSkip V idleKeep calls (sfConsume idleKeep f).2
    else
      (runSkip V idleKeep calls (sfConsume idleKeep f).2).map
        (fun h => { h with consumed := (sfConsume idleKeep f).1 :: h.consumed })

/-! ### Sequences of commands and events -/

/-- Run a sequence of operations, each a step of its own; `none` if one of them stops. -/
def runInstrs : List Instr → State → Option State
  | [], s => some s
  | i :: is, s =>
    match exec i s with
    | .next t => runInstrs is t
    | .fault _ => none
    | .refused _ => none

/-- The element an ENQ command on `TX(p)` offers. -/
def offeredBy (p : Peripheral) : Instr → Option Element
  | .enqU v => if p = .uart then some v else none
  | .enqS v _ => if p = .spi then some v else none
  | .deqU => none
  | .deqS => none
  | .rst _ => none
  | .empty _ => none
  | .full _ => none
  | .hookset _ => none
  | .hookclr _ => none
  | .xchgU _ => none
  | .xchgS _ => none

/-- The decision an ENQ.S carries (and `false` for anything else). -/
def keepOperand : Instr → Bool
  | .enqU _ => false
  | .enqS _ keep => keep
  | .deqU => false
  | .deqS => false
  | .rst _ => false
  | .empty _ => false
  | .full _ => false
  | .hookset _ => false
  | .hookclr _ => false
  | .xchgU _ => false
  | .xchgS _ => false

/-- The received element an event carries (and 0 for a command). -/
def rxOperand : Instr → Element
  | .enqU _ => 0
  | .enqS _ _ => 0
  | .deqU => 0
  | .deqS => 0
  | .rst _ => 0
  | .empty _ => 0
  | .full _ => 0
  | .hookset _ => 0
  | .hookclr _ => 0
  | .xchgU rx => rx
  | .xchgS rx => rx

/-- The step from `s` to `t` responded `Ok` with data 0. -/
def respondedOk (s t : State) : Bool := newOutputs s t == [.response (responseWord .ok 0)]

/-- The values of the accepted ENQ commands on `TX(p)`, in order (R126). -/
def acceptedValues (p : Peripheral) : List Instr → State → List Element
  | [], _ => []
  | i :: is, s =>
    match exec i s with
    | .next t => (if respondedOk s t then (offeredBy p i).toList else []) ++ acceptedValues p is t
    | .fault _ => []
    | .refused _ => []

/-- The accepted ENQ.S commands as (value, keep) pairs, in order (R119). -/
def acceptedPairs : List Instr → State → List (Element × Bool)
  | [], _ => []
  | i :: is, s =>
    match exec i s with
    | .next t =>
      (if respondedOk s t then (offeredBy .spi i).toList.map (fun v => (v, keepOperand i)) else []) ++ acceptedPairs is t
    | .fault _ => []
    | .refused _ => []

/-- The values of the `TX_OUT(p, ·)` records of loaded exchanges, in order (R126). -/
def sentValues (p : Peripheral) : List Instr → State → List Element
  | [], _ => []
  | i :: is, s =>
    match exec i s with
    | .next t =>
      (if eventOf i = some p ∧ (s.driver p).loaded = true then wireRecordOf p (newOutputs s t) else []) ++ sentValues p is t
    | .fault _ => []
    | .refused _ => []

/-- For each loaded SPI exchange, in order: the value of its `TX_OUT` record and the bit its SF.CONSUME returned (R119). -/
def sentPairs : List Instr → State → List (Element × Bool)
  | [], _ => []
  | i :: is, s =>
    match exec i s with
    | .next t =>
      (if eventOf i = some .spi ∧ s.spi.loaded = true then
        (wireRecordOf .spi (newOutputs s t)).map (fun v => (v, (sfConsume s.cfg.idleKeep s.skip).1)) else [])
        ++ sentPairs is t
    | .fault _ => []
    | .refused _ => []

/-- The received elements that the events of `p` have to store, in order: the `rx` of every UART event, of every SPI event whose
decision (the head of the in-flight queue, or `IDLE_KEEP`) is keep; less those that find `RX(p)` full (R120, R127). -/
def storedValues (p : Peripheral) : List Instr → State → List Element
  | [], _ => []
  | i :: is, s =>
    match exec i s with
    | .next t =>
      (if eventOf i = some p ∧ (s.queue (rxOf p)).length < s.cfg.N ∧
          (p = .uart ∨ ((s.inflightPairs.head?.map Prod.snd).getD s.cfg.idleKeep) = true)
        then [rxOperand i] else []) ++ storedValues p is t
    | .fault _ => []
    | .refused _ => []

/-- The instruction is DEQ on `RX(p)`. -/
def isDequeue (p : Peripheral) : Instr → Bool
  | .enqU _ => false
  | .enqS _ _ => false
  | .deqU => p = .uart
  | .deqS => p = .spi
  | .rst _ => false
  | .empty _ => false
  | .full _ => false
  | .hookset _ => false
  | .hookclr _ => false
  | .xchgU _ => false
  | .xchgS _ => false

/-- The status field of a response word, bits 17:16 (R70). -/
def responseStatus (x : Word32) : BitVec 2 := x.extractLsb' 16 2

/-- The data field of a response word, bits 15:0 (R70). -/
def responseData (x : Word32) : Element := x.extractLsb' 0 16

/-- The data of the `Ok` responses among some records. -/
def okData (o : List Output) : List Element :=
  (responsesOf o).filterMap (fun x => if responseStatus x = 0 then some (responseData x) else none)

/-- The elements the successful DEQ commands on `RX(p)` returned, in order (R61). -/
def deliveredValues (p : Peripheral) : List Instr → State → List Element
  | [], _ => []
  | i :: is, s =>
    match exec i s with
    | .next t => (if isDequeue p i then okData (newOutputs s t) else []) ++ deliveredValues p is t
    | .fault _ => []
    | .refused _ => []

end Sys2Proof.Machine
end

