-- ==== Sys2Proof/Machine/Assembler.lean ====
section
/-!
DEFINITION. The written form of operations and responses, and the pseudo-instructions (30_encoding.md R77, R78).
-/
namespace Sys2Proof.Machine

/-- A number in hexadecimal (R13). -/
def hexText (n : Nat) : String := "0x" ++ String.ofList ((Nat.toDigits 16 n).map Char.toUpper)

/-- The name of a channel (R9, R77). -/
def channelText : Channel → String
  | .uartRx => "UART_RX"
  | .uartTx => "UART_TX"
  | .spiRx => "SPI_RX"
  | .spiTx => "SPI_TX"

/-- The name of a peripheral (R9, R77). -/
def peripheralText : Peripheral → String
  | .uart => "UART"
  | .spi => "SPI"

/-- One line of assembler (R77). -/
def instrText : Instr → String
  | .enqU v => "ENQ.U " ++ hexText v.toNat
  | .enqS v k => "ENQ.S " ++ hexText v.toNat ++ (if k then ", 1" else ", 0")
  | .deqU => "DEQ.U"
  | .deqS => "DEQ.S"
  | .rst c => "RST " ++ channelText c
  | .empty c => "EMPTY " ++ channelText c
  | .full c => "FULL " ++ channelText c
  | .hookset p => "HOOKSET " ++ peripheralText p
  | .hookclr p => "HOOKCLR " ++ peripheralText p
  | .xchgU rx => "XCHG.U " ++ hexText rx.toNat
  | .xchgS rx => "XCHG.S " ++ hexText rx.toNat

/-- The name of a status code (R71). -/
def statusText (code : BitVec 2) : String :=
  if code = 0 then "Ok" else if code = 1 then "BufferFull" else if code = 2 then "BufferEmpty" else "Illegal"

/-- The written form of a response; `withData` for the commands whose `Ok` carries a value (R70, R77). -/
def responseText (withData : Bool) (x : Word32) : String :=
  "-> " ++ statusText (responseStatus x) ++
    (if withData && responseStatus x == 0 then " " ++ hexText (responseData x).toNat else "")

/-- The four pseudo-instructions (R78). -/
inductive Pseudo where
  /-- WAITDEQ.U, WAITDEQ.S -/
  | waitDeq (p : Peripheral)
  /-- STOP.U, STOP.S -/
  | stop (p : Peripheral)
deriving DecidableEq, Repr

/-- The DEQ of a peripheral (R102, R103). -/
def deqOf : Peripheral → Instr
  | .uart => .deqU
  | .spi => .deqS

/-- `STOP p`: `RST RX(p)` ; `RST TX(p)` (R78, R162). -/
def stopExpansion (p : Peripheral) : List Instr := [.rst (rxOf p), .rst (txOf p)]

/-- The next command of WAITDEQ on `p`, from the responses got so far: poll EMPTY while the answer's data is 1, then DEQ, then
nothing more. The loop is the foreground's (R78, R171). -/
def waitDeqNext (p : Peripheral) : List Word32 → Option Instr
  | [] => some (.empty (rxOf p))
  | x :: xs =>
    if responseData x = 1 then waitDeqNext p xs
    else match xs with
      | [] => some (deqOf p)
      | _ :: _ => none

/-- The next real command of a pseudo-instruction, from the responses got so far; `none` when it is over (R78). -/
def pseudoNext : Pseudo → List Word32 → Option Instr
  | .waitDeq p, xs => waitDeqNext p xs
  | .stop p, xs => (stopExpansion p)[xs.length]?

end Sys2Proof.Machine
end

