-- ==== Sys2Proof/Machine/Invariant.lean ====
section
/-!
DEFINITION. Well-formed states (10_state.md R44, from R22, R23, R31, R32, R35, R36), with the ranges of the data they hold (R7, R17) and
the fact that every live location was written (20_memory.md R62).
-/
namespace Sys2Proof.Machine

/-- Every listed location exists and holds a `W`-bit element (R7, R17, R46). -/
abbrev MemoryInRange (c : Config) (m : Memory) : Prop := ∀ x ∈ m, x.1 < c.N ∧ c.W.fits x.2 = true

/-- Every location of the live window was written (R24, R62). -/
abbrev LiveWindowWritten (N : Nat) (r : Ring) : Prop :=
  ∀ k < r.cnt, (r.buf.read ((r.rd + k) % N)).isSome = true

/-- A well-formed ring buffer (R22, R23, R44). -/
abbrev RingWF (c : Config) (r : Ring) : Prop :=
  r.rd < c.N ∧ r.wr < c.N ∧ r.cnt ≤ c.N ∧ r.wr = (r.rd + r.cnt) % c.N ∧
  r.buf.wf ∧ MemoryInRange c r.buf ∧ LiveWindowWritten c.N r

/-- A well-formed driver: a `W`-bit slot, `loaded = 0` implies `cnt[TX] = 0` (R35), `cnt[TX] > 0` implies `notify = 1` (R36). -/
abbrev DriverWF (c : Config) (d : Driver) (tx : Ring) : Prop :=
  c.W.fits d.slot = true ∧ (d.loaded = false → tx.cnt = 0) ∧ (0 < tx.cnt → d.notify = true)

/-- The alignment invariant `pos = cnt[SPI_TX] + loaded[SPI]` (R31), and every bit of `vec` at position `>= pos` is 0 (R32), which for
a natural is `vec < 2^pos`. -/
abbrev SkipWF (f : SkipFlags) (d : Driver) (tx : Ring) : Prop :=
  f.pos = tx.cnt + d.loaded.toNat ∧ f.vec < 2 ^ f.pos

/-- The four ring buffers are well-formed. -/
abbrev State.RingsWF (s : State) : Prop :=
  RingWF s.cfg s.uartRx ∧ RingWF s.cfg s.uartTx ∧ RingWF s.cfg s.spiRx ∧ RingWF s.cfg s.spiTx

/-- A well-formed state (R44), of an admitted configuration (R6, R8). -/
abbrev State.WF (s : State) : Prop :=
  s.cfg.WF ∧ s.RingsWF ∧ DriverWF s.cfg s.uart s.uartTx ∧ DriverWF s.cfg s.spi s.spiTx ∧
  SkipWF s.skip s.spi s.spiTx

end Sys2Proof.Machine
end

