-- ==== Sys2Proof/Machine/Reference.lean ====
section
/-!
DEFINITION. The list-level reference machines of 43_exchange_driver.md R134 (SPI) and R135 (UART), against which the register model is
checked, and the abstraction from states to them.
-/
namespace Sys2Proof.Machine

/-- The abstract state of one peripheral: the in-flight queue `F` (its head is in the slot), the received queue `Q`, and two bits (R134,
R135). `α` is (value, keep) for the SPI and value for the UART. -/
structure Reference (α : Type) where
  F : List α
  Q : List Element
  notify : Bool
  hook : Bool
deriving DecidableEq, Repr

/-- What an operation of the reference does: the abstract state after, and the records it emits. -/
abbrev ReferenceStep (α : Type) := Reference α × List Output

/-- A response record. -/
def respondRecord (st : Status) (data : Element) : Output := .response (responseWord st data)

/-- `ENQ` (R134, R135). -/
def refEnqueue {α : Type} (N : Nat) (x : α) (a : Reference α) : ReferenceStep α :=
  if a.F.length = N + 1 then (a, [respondRecord .bufferFull 0])
  else ({ a with F := a.F ++ [x], notify := a.notify || decide (1 ≤ a.F.length) }, [respondRecord .ok 0])

/-- `DEQ` (R134, R135). -/
def refDequeue {α : Type} (a : Reference α) : ReferenceStep α :=
  match a.Q with
  | x :: q => ({ a with Q := q }, [respondRecord .ok x])
  | [] => (a, [respondRecord .bufferEmpty 0])

/-- `RST TX` (R134, R135). -/
def refResetTx {α : Type} (a : Reference α) : ReferenceStep α :=
  ({ a with F := [], notify := false }, [respondRecord .ok 0])

/-- `RST RX` (R134, R135). -/
def refResetRx {α : Type} (a : Reference α) : ReferenceStep α := ({ a with Q := [] }, [respondRecord .ok 0])

/-- An EMPTY or FULL question: the state stays (R134, R135). -/
def refAnswer {α : Type} (b : Bool) (a : Reference α) : ReferenceStep α := (a, [respondRecord .ok (answerData b)])

/-- HOOKSET and HOOKCLR (R107, R108). -/
def refHook {α : Type} (b : Bool) (a : Reference α) : ReferenceStep α := ({ a with hook := b }, [respondRecord .ok 0])

/-- What both events do to the abstract state once it is known whether the received element is kept (R134, R135). -/
def refExchange {α : Type} (N : Nat) (keep : Bool) (rx : Element) (a : Reference α) : Reference α :=
  { F := a.F.tail
    Q := if keep = true ∧ a.Q.length < N then a.Q ++ [rx] else a.Q
    notify := decide (2 ≤ a.F.length)
    hook := a.hook }

/-- The hook record of an event (R134, R135). -/
def refHookRecord (p : Peripheral) (hook : Bool) : List Output := if hook then [.hook p] else []

/-- `XCHG.S(rx)` of the reference; `drawn` is the `draw(W)` of an idle exchange (R134). -/
def refXchgS (c : Config) (drawn rx : Element) (a : Reference (Element × Bool)) : ReferenceStep (Element × Bool) :=
  match a.F with
  | (v, k) :: _ => (refExchange c.N k rx a, .txOut .spi v :: refHookRecord .spi a.hook)
  | [] => (refExchange c.N c.idleKeep rx a, .txOut .spi drawn :: refHookRecord .spi a.hook)

/-- `XCHG.U(rx)` of the reference (R135). -/
def refXchgU (c : Config) (rx : Element) (a : Reference Element) : ReferenceStep Element :=
  match a.F with
  | v :: _ => (refExchange c.N true rx a, .txOut .uart v :: refHookRecord .uart a.hook)
  | [] => (refExchange c.N true rx a, refHookRecord .uart a.hook)

/-- The reference machine of the SPI (R134); `none` for an operation that is not the SPI's. -/
def refSpi (c : Config) (drawn : Element) (i : Instr) (a : Reference (Element × Bool)) :
    Option (ReferenceStep (Element × Bool)) :=
  match i with
  | .enqS v k => some (refEnqueue c.N (v, k) a)
  | .deqS => some (refDequeue a)
  | .rst .spiTx => some (refResetTx a)
  | .rst .spiRx => some (refResetRx a)
  | .empty .spiTx => some (refAnswer (decide (a.F.length ≤ 1)) a)
  | .empty .spiRx => some (refAnswer (decide (a.Q.length = 0)) a)
  | .full .spiTx => some (refAnswer (decide (a.F.length = c.N + 1)) a)
  | .full .spiRx => some (refAnswer (decide (a.Q.length = c.N)) a)
  | .hookset .spi => some (refHook true a)
  | .hookclr .spi => some (refHook false a)
  | .xchgS rx => some (refXchgS c drawn rx a)
  | .rst .uartTx => none
  | .rst .uartRx => none
  | .empty .uartTx => none
  | .empty .uartRx => none
  | .full .uartTx => none
  | .full .uartRx => none
  | .hookset .uart => none
  | .hookclr .uart => none
  | .enqU _ => none
  | .deqU => none
  | .xchgU _ => none

/-- The reference machine of the UART (R135); `none` for an operation that is not the UART's. -/
def refUart (c : Config) (i : Instr) (a : Reference Element) : Option (ReferenceStep Element) :=
  match i with
  | .enqU v => some (refEnqueue c.N v a)
  | .deqU => some (refDequeue a)
  | .rst .uartTx => some (refResetTx a)
  | .rst .uartRx => some (refResetRx a)
  | .empty .uartTx => some (refAnswer (decide (a.F.length ≤ 1)) a)
  | .empty .uartRx => some (refAnswer (decide (a.Q.length = 0)) a)
  | .full .uartTx => some (refAnswer (decide (a.F.length = c.N + 1)) a)
  | .full .uartRx => some (refAnswer (decide (a.Q.length = c.N)) a)
  | .hookset .uart => some (refHook true a)
  | .hookclr .uart => some (refHook false a)
  | .xchgU rx => some (refXchgU c rx a)
  | .rst .spiTx => none
  | .rst .spiRx => none
  | .empty .spiTx => none
  | .empty .spiRx => none
  | .full .spiTx => none
  | .full .spiRx => none
  | .hookset .spi => none
  | .hookclr .spi => none
  | .enqS _ _ => none
  | .deqS => none
  | .xchgS _ => none

/-- The abstraction of the SPI side (R134: `loaded = (|F| >= 1)`, `cnt = max(|F| - 1, 0)`, `pos = |F|`). -/
def State.absSpi (s : State) : Reference (Element × Bool) :=
  { F := s.inflightPairs, Q := s.queue .spiRx, notify := s.spi.notify, hook := s.spi.hook }

/-- The abstraction of the UART side (R135). -/
def State.absUart (s : State) : Reference Element :=
  { F := s.inflight .uart, Q := s.queue .uartRx, notify := s.uart.notify, hook := s.uart.hook }

end Sys2Proof.Machine
end

