-- ==== Sys2Proof/Safety.lean ====
section
/-!
DEFINITION. What counts as a safe run, in the terms the statements use: reachable states (10_state.md R42, R44), and stimuli that spell
events (30_encoding.md R73).
-/
namespace Sys2Proof.Machine

/-- The states of runs from power-on reset with configuration `c`, whatever the environment presents (R41, R54, R177). -/
inductive Reachable (c : Config) : State → Prop where
  | reset (q : List Period) : Reachable c ((State.resetWith c).setSchedule q)
  | step {s t : State} : Reachable c s → Sys2Proof.Machine.step s = .next t → Reachable c t

/-- A period whose strobes all carry words that spell events of their peripherals (R73, R130 E4). -/
abbrev Period.legal (w : Width) (p : Period) : Prop :=
  (∀ x ∈ p.spi, (decodeStrobe w .spi x).isSome = true) ∧ (∀ x ∈ p.uart, (decodeStrobe w .uart x).isSome = true)

/-- Nothing in the schedule is a malformed stimulus (U13). -/
abbrev State.legalStimulus (s : State) : Prop := ∀ p ∈ s.schedule, p.legal s.cfg.W

/-- The state is well-formed and the machine will not be given a malformed stimulus: what a safe run keeps. -/
abbrev State.Safe (s : State) : Prop := s.WF ∧ s.legalStimulus

end Sys2Proof.Machine
end

