-- ==== Sys2Proof/Certificates/Slice0/Obligations.lean ====
section
/-!
DEFINITION. The statements about FXC, in the order of the spec's files. Each docstring names the rule it formalises.
-/
open Sys2Proof Sys2Proof.Machine

/-! ## Encoding (30_encoding.md) -/

/-- R69, R73, R80: for every instruction a build of width `w` can spell, decoding its word gives it back, every operand included. -/
def Obligations.DecodeInvertsEncode : Prop :=
  ∀ (w : Width) (i : Instr), i.wellFormed w = true → decodeWord w (encode i) = some i

/-- R69, R73: a word that decodes is the word of the instruction it decodes to, and that instruction is well-formed: no bit is ignored. -/
def Obligations.DecodedWordsReencode : Prop :=
  ∀ (w : Width) (x : Word32) (i : Instr), decodeWord w x = some i → encode i = x ∧ i.wellFormed w = true

/-- R80: "a word `w` is that operation exactly when `w & mask = match` and the listed constraint holds"; no word is two operations; and a
word that is none of them decodes to nothing. -/
def Obligations.OpcodeMapDecidesTheOperation : Prop :=
  (∀ (w : Width) (x : Word32) (m : String),
    (∃ i, decodeWord w x = some i ∧ mnemonicOf i = m) ↔ ∃ r ∈ opcodeMap, r.mnemonic = m ∧ r.holds w x = true) ∧
  (∀ (x : Word32), ∀ r ∈ opcodeMap, ∀ q ∈ opcodeMap, x &&& r.mask = r.pattern → x &&& q.mask = q.pattern → r = q)

/-- R68: a command word is legal exactly when the six operand checks (a) to (f) hold. -/
def Obligations.CommandWordLegalExactlyWhenChecksHold : Prop :=
  ∀ (w : Width) (x : Word32),
    (decodeCommand w x).isSome = true ↔
      fieldZ x = 0 ∧
      (0x01 ≤ (fieldOp x).toNat ∧ (fieldOp x).toNat ≤ 0x07) ∧
      ((fieldOp x = 0x01 ∧ (fieldSel x = 1 ∨ fieldSel x = 3)) ∨
       (fieldOp x = 0x02 ∧ (fieldSel x = 0 ∨ fieldSel x = 2)) ∨
       ((fieldOp x = 0x03 ∨ fieldOp x = 0x04 ∨ fieldOp x = 0x05) ∧ (fieldSel x).toNat ≤ 3) ∨
       ((fieldOp x = 0x06 ∨ fieldOp x = 0x07) ∧ (fieldSel x).toNat ≤ 1)) ∧
      (fieldK x = false ∨ (fieldOp x = 0x01 ∧ fieldSel x = 3)) ∧
      (fieldData x = 0 ∨ fieldOp x = 0x01) ∧
      (fieldOp x = 0x01 → (fieldData x).toNat < 2 ^ w.bits)

/-- R73: an event word spells an event exactly when its four checks hold, and then the one its `sel` names. -/
def Obligations.EventWordDecode : Prop :=
  ∀ (w : Width) (x : Word32),
    decodeEvent w x =
      if fieldOp x = 0x80 ∧ fieldEventZ x = 0 ∧ (fieldSel x).toNat ≤ 1 ∧ (fieldData x).toNat < 2 ^ w.bits then
        (if fieldSel x = 0 then some (.xchgU (fieldData x)) else some (.xchgS (fieldData x)))
      else none

/-- R80, worked encodings: ten words, each the instruction the spec says it is (a sanity statement). -/
def Obligations.WorkedEncodings : Prop :=
  decodeWord .w8 0x013100AA = some (.enqS 0xAA true) ∧ decodeWord .w8 0x013000BB = some (.enqS 0xBB false) ∧
  decodeWord .w8 0x01100010 = some (.enqU 0x10) ∧ decodeWord .w8 0x02200000 = some .deqS ∧
  decodeWord .w8 0x03300000 = some (.rst .spiTx) ∧ decodeWord .w8 0x04000000 = some (.empty .uartRx) ∧
  decodeWord .w8 0x05100000 = some (.full .uartTx) ∧ decodeWord .w8 0x06100000 = some (.hookset .spi) ∧
  decodeWord .w8 0x80100001 = some (.xchgS 0x01) ∧ decodeWord .w8 0x8000005A = some (.xchgU 0x5A)

/-- R70, R71: the three fields of every response word, and the four words with data 0. -/
def Obligations.ResponseWordFields : Prop :=
  (∀ (st : Status) (data : Element),
    (responseWord st data).extractLsb' 18 14 = 0 ∧ responseStatus (responseWord st data) = statusCode st ∧
    responseData (responseWord st data) = data) ∧
  responseWord .ok 0 = 0x00000000 ∧ responseWord .bufferFull 0 = 0x00010000 ∧
  responseWord .bufferEmpty 0 = 0x00020000 ∧ responseWord .illegal 0 = 0x00030000

/-! ## Steps and their order (20_memory.md, 60_exceptions.md) -/

/-- R52, R99, R143: when the next word presented decodes, on the port it is presented at, the step is `exec` of the decoded instruction, on
the state with that word taken from the schedule. -/
def Obligations.StepRunsTheDecodedWord : Prop :=
  ∀ (s : State) (i : Instr) (q : List Period), s.cfg.WF →
    (∀ x, takeNext s.schedule = (.command x, q) → decodeCommand s.cfg.W x = some i →
      step s = exec i { s with schedule := q }) ∧
    (∀ p x, takeNext s.schedule = (.event p x, q) → decodeEvent s.cfg.W x = some i → eventOf i = some p →
      step s = exec i { s with schedule := q })

/-- R20, R52, R63: a word presented before anything else is what the very next step performs: the step is `exec` of the instruction the word
spells, on the state as it was, for every instruction the build can spell, command or event. -/
def Obligations.PresentedWordIsTheNextStep : Prop :=
  ∀ (s : State) (i : Instr), s.cfg.WF → i.wellFormed s.cfg.W = true →
    step (s.withFetchWord 32 (encode i).toNat) = exec i s

/-- R69, R74, R109: a command word that spells no command is answered `Illegal`, data 0, and nothing else changes. -/
def Obligations.IllegalWordIsAnsweredAndChangesNothing : Prop :=
  ∀ (s : State) (x : Word32) (q : List Period), s.cfg.WF →
    takeNext s.schedule = (.command x, q) → decodeCommand s.cfg.W x = none →
      step s = .next { s with schedule := q, out := s.out ++ [.response 0x00030000] }

/-- R73, U12, U13 (the model's choice of the outcome's form, logs 10 and 11): the strobe word that spells no event of its peripheral is
refused, an inadmissible configuration is refused, and with nothing presented nothing happens (R123). -/
def Obligations.RefusedStimulusRefusedConfigurationAndStalledClock : Prop :=
  (∀ (s : State) (p : Peripheral) (x : Word32) (q : List Period), s.cfg.WF → takeNext s.schedule = (.event p x, q) →
    (∀ i, decodeEvent s.cfg.W x = some i → eventOf i ≠ some p) → step s = .refused (.malformedEvent x)) ∧
  (∀ s : State, ¬ s.cfg.WF → step s = .refused .configuration) ∧
  (∀ s : State, s.cfg.WF → s.schedule = [] → step s = .next s)

/-- R53: of an SPI event, a UART event and a command presented in one period, the SPI event is performed first, then the UART event, then
the command. -/
def Obligations.SamePeriodOrder : Prop :=
  ∀ (s : State) (rx ry : Element) (i : Instr) (rest : List Period), s.cfg.WF →
    (Instr.xchgS rx).wellFormed s.cfg.W = true → (Instr.xchgU ry).wellFormed s.cfg.W = true →
    i.wellFormed s.cfg.W = true → eventOf i = none →
    (s.schedule = { spi := some (encode (.xchgS rx)), uart := some (encode (.xchgU ry)), command := some (encode i) } :: rest →
      step s = exec (.xchgS rx)
        { s with schedule := { uart := some (encode (.xchgU ry)), command := some (encode i) } :: rest }) ∧
    (s.schedule = { uart := some (encode (.xchgU ry)), command := some (encode i) } :: rest →
      step s = exec (.xchgU ry) { s with schedule := { command := some (encode i) } :: rest }) ∧
    (s.schedule = { command := some (encode i) } :: rest → step s = exec i { s with schedule := rest })

/-- R53: "The two events touch disjoint state (SPI state versus UART state), so their relative order changes no state and no response; it
fixes only the order of their output records." -/
def Obligations.EventsOfTheTwoPeripheralsCommute : Prop :=
  ∀ (s : State) (rx ry : Element), s.RingsWF →
    ∃ a t b u, exec (.xchgS rx) s = .next a ∧ exec (.xchgU ry) a = .next t ∧
      exec (.xchgU ry) s = .next b ∧ exec (.xchgS rx) b = .next u ∧
      t = { u with out := t.out } ∧
      newOutputs s t = newOutputs s a ++ newOutputs s b ∧ newOutputs s u = newOutputs s b ++ newOutputs s a

/-! ## Reset (10_state.md R42, 70_reset_and_hazards.md) -/

/-- R42, R159: after power-on reset every control field is zero and both drivers are Idle, for every configuration. The data fields are
the model's (logs 2, 3) and are not stated. -/
def Obligations.ResetControlState : Prop :=
  ∀ c : Config, ∀ ch : Channel, ∀ p : Peripheral,
    let s := State.resetWith c
    s.cfg = c ∧ (s.ring ch).cnt = 0 ∧ (s.ring ch).rd = 0 ∧ (s.ring ch).wr = 0 ∧
    (s.driver p).loaded = false ∧ (s.driver p).notify = false ∧ (s.driver p).hook = false ∧ s.fsm p = .idle ∧
    s.skip = { vec := 0, pos := 0 } ∧ s.out = []

/-- R159: power-on reset asserted in a period loses that period's command and events and leaves, from any state, what can be observed of
the reset state. -/
def Obligations.PowerOnResetFromAnyState : Prop :=
  ∀ (s : State) (p : Period) (rest : List Period), s.cfg.WF → p.reset = true → s.schedule = p :: rest →
    ∃ t, step s = .next t ∧ t.observables = (State.resetWith s.cfg).observables ∧ t.cfg = s.cfg ∧
      t.schedule = rest ∧ t.out = s.out

/-- R159: "The state after power-on reset equals the state after `STOP.U; STOP.S; HOOKCLR UART; HOOKCLR SPI` issued from any state, up to
unobservable fields". -/
def Obligations.StopSequenceReachesTheResetView : Prop :=
  ∀ s : State, ∃ t,
    runInstrs (stopExpansion .uart ++ stopExpansion .spi ++ [.hookclr .uart, .hookclr .spi]) s = some t ∧
    t.observables = (powerOnReset s).observables

/-! ## Ring buffers (40_ring_buffer.md) -/

/-- R81: RB.PUSH, its failure, its two flags afterwards, and "RB.PUSH never overwrites a live element". -/
def Obligations.PushStoresAtTheWriteIndex : Prop :=
  ∀ (c : Config) (ch : Channel) (v : Element) (r : Ring), RingWF c r →
    (r.cnt = c.N → rbPush c.N ch v r = .bufferFull) ∧
    (r.cnt ≠ c.N → ∃ q, rbPush c.N ch v r = .ok q ∧
      q.buf.read r.wr = some v ∧ (∀ j, j ≠ r.wr → q.buf.read j = r.buf.read j) ∧
      q.rd = r.rd ∧ q.wr = (r.wr + 1) % c.N ∧ q.cnt = r.cnt + 1 ∧
      rbEmpty q = false ∧ (rbFull c.N q = true ↔ q.cnt = c.N) ∧
      ∀ k < r.cnt, (r.rd + k) % c.N ≠ r.wr)

/-- R82: RB.POP, its failure, and its two flags afterwards; the array is left as it is. -/
def Obligations.PopReadsAtTheReadIndex : Prop :=
  ∀ (c : Config) (ch : Channel) (r : Ring), RingWF c r →
    (r.cnt = 0 → rbPop c.N ch r = .bufferEmpty) ∧
    (r.cnt ≠ 0 → ∃ v q, rbPop c.N ch r = .ok v q ∧ r.buf.read r.rd = some v ∧
      q.buf = r.buf ∧ q.wr = r.wr ∧ q.rd = (r.rd + 1) % c.N ∧ q.cnt = r.cnt - 1 ∧
      rbFull c.N q = false ∧ (rbEmpty q = true ↔ q.cnt = 0))

/-- R24: `queue(c)` has length `cnt[c]`; "RB.PUSH appends to the end of `queue(c)`, RB.POP removes its head, RB.RESET makes it empty". -/
def Obligations.RingOperationsActOnTheQueue : Prop :=
  ∀ (c : Config) (ch : Channel) (r : Ring), RingWF c r →
    (r.queue c.N).length = r.cnt ∧
    (∀ v q, c.W.fits v = true → rbPush c.N ch v r = .ok q → q.queue c.N = r.queue c.N ++ [v] ∧ RingWF c q) ∧
    (∀ v q, rbPop c.N ch r = .ok v q → r.queue c.N = v :: q.queue c.N ∧ RingWF c q) ∧
    ((rbReset r).queue c.N = [] ∧ RingWF c (rbReset r))

/-- R87, the capacity law, from any empty state: `N` pushes succeed, the next fails; then `N` pops succeed in push order, the next fails. -/
def Obligations.RingCapacityLaw : Prop :=
  ∀ (c : Config) (ch : Channel) (r : Ring) (vs : List Element) (v : Element), RingWF c r → r.cnt = 0 →
    vs.length = c.N → (∀ x ∈ vs, c.W.fits x = true) →
    ∃ full emptied,
      runRing c.N ch (vs.map .push) r = .ok { pushed := vs, popped := [], final := full } ∧
      rbPush c.N ch v full = .bufferFull ∧
      runRing c.N ch (List.replicate c.N .pop) full = .ok { pushed := [], popped := vs, final := emptied } ∧
      rbPop c.N ch emptied = .bufferEmpty

/-- R88, the FIFO law: for any sequence of calls at all, what was queued and pushed comes out in that order; so from an empty buffer the
values popped are a prefix of the values pushed. -/
def Obligations.RingFifoLaw : Prop :=
  ∀ (c : Config) (ch : Channel) (calls : List RingCall) (r : Ring), RingWF c r →
    (∀ v, RingCall.push v ∈ calls → c.W.fits v = true) →
    ∃ h, runRing c.N ch calls r = .ok h ∧ r.queue c.N ++ h.pushed = h.popped ++ h.final.queue c.N ∧
      (r.cnt = 0 → h.popped <+: h.pushed)

/-- R89, the reset law: after RB.RESET the buffer is empty and not full, whatever it was; at the port, RST then EMPTY answers 1. -/
def Obligations.ResetThenEmpty : Prop :=
  (∀ (N : Nat) (r : Ring), 1 ≤ N → rbEmpty (rbReset r) = true ∧ rbFull N (rbReset r) = false) ∧
  (∀ (s : State) (c : Channel), ∃ t u, exec (.rst c) s = .next t ∧ exec (.empty c) t = .next u ∧
    newOutputs t u = [.response 0x00000001])

/-! ## Skip-Flag Vector (41_skip_flag_vector.md) -/

/-- R92, R93: which bits SF.RECORD and SF.CONSUME change, what they return, and what happens at the ends of their ranges. -/
def Obligations.RecordAndConsumeBits : Prop :=
  (∀ (V : Nat) (keep : Bool) (f : SkipFlags), f.pos < V → ∃ g, sfRecord V keep f = .ok g ∧ g.pos = f.pos + 1 ∧
    ∀ j, g.vec.testBit j = if j = f.pos then keep else f.vec.testBit j) ∧
  (∀ (V : Nat) (keep : Bool) (f : SkipFlags), f.pos = V → sfRecord V keep f = .error .recordOverflow) ∧
  (∀ (idleKeep : Bool) (f : SkipFlags), f.pos = 0 → sfConsume idleKeep f = (idleKeep, f)) ∧
  (∀ (idleKeep : Bool) (f : SkipFlags), f.pos ≠ 0 → (sfConsume idleKeep f).1 = f.vec.testBit 0 ∧
    (sfConsume idleKeep f).2.pos = f.pos - 1 ∧
    ∀ j, (sfConsume idleKeep f).2.vec.testBit j = f.vec.testBit (j + 1))

/-- R30: `decisions` has length `pos`; "SF.RECORD appends to its end, SF.CONSUME removes its head". -/
def Obligations.VectorOperationsActOnTheDecisions : Prop :=
  ∀ f : SkipFlags, f.decisions.length = f.pos ∧
    (∀ V keep g, sfRecord V keep f = .ok g → g.decisions = f.decisions ++ [keep]) ∧
    (∀ idleKeep, f.pos ≠ 0 → f.decisions = (sfConsume idleKeep f).1 :: (sfConsume idleKeep f).2.decisions)

/-- R95, the alignment law: ignoring calls with nothing pending, the bits SF.CONSUME returns are, in order, the pending bits and then the
bits given to SF.RECORD, however the calls interleave and however many there are; and a sequence whose decisions fit in `V` bits runs. -/
def Obligations.SkipFlagAlignmentLaw : Prop :=
  ∀ (V : Nat) (idleKeep : Bool) (calls : List SkipCall) (f : SkipFlags),
    (f.pos + calls.countP (fun k => k != .consume) ≤ V → ∃ h, runSkip V idleKeep calls f = .ok h) ∧
    (∀ h, runSkip V idleKeep calls f = .ok h → f.decisions ++ h.recorded = h.consumed ++ h.final.decisions ∧
      (f.pos = 0 → h.consumed <+: h.recorded))

/-! ## Commands (42_channel_commands.md) -/

/-- R100: ENQ.U, its word and its three endings (fast path, `BufferFull`, slow path), each with everything it leaves unchanged. -/
def Obligations.EnqUStagesQueuesOrReportsFull : Prop :=
  (∀ (w : Width) (v : Element), decodeCommand w (0x01100000 ||| v.setWidth 32) =
    if v.toNat < 2 ^ w.bits then some (.enqU v) else none) ∧
  ∀ (s : State) (v : Element), s.uartTx.wr < s.cfg.N →
    exec (.enqU v) s =
      if s.uart.loaded = false ∧ s.uartTx.cnt = 0 then
        .next { s with uart := { s.uart with slot := v, loaded := true }, out := s.out ++ [.response 0x00000000] }
      else if s.uartTx.cnt = s.cfg.N then .next { s with out := s.out ++ [.response 0x00010000] }
      else
        .next { s with
          uartTx := { s.uartTx with
            buf := s.uartTx.buf.write s.uartTx.wr v
            wr := (s.uartTx.wr + 1) % s.cfg.N
            cnt := s.uartTx.cnt + 1 }
          uart := { s.uart with notify := true }
          out := s.out ++ [.response 0x00000000] }

/-- R101: ENQ.S, its word and its three endings; the decision is recorded on both accepting paths and on no other. -/
def Obligations.EnqSStagesQueuesOrReportsFull : Prop :=
  (∀ (w : Width) (v : Element) (keep : Bool),
    decodeCommand w (0x01300000 ||| (BitVec.ofBool keep).setWidth 32 <<< 16 ||| v.setWidth 32) =
      if v.toNat < 2 ^ w.bits then some (.enqS v keep) else none) ∧
  ∀ (s : State) (v : Element) (keep : Bool), s.spiTx.wr < s.cfg.N → s.skip.pos < s.cfg.V →
    exec (.enqS v keep) s =
      if s.spi.loaded = false ∧ s.spiTx.cnt = 0 then
        .next { s with
          spi := { s.spi with slot := v, loaded := true }
          skip := { vec := writeBit s.skip.vec s.skip.pos keep, pos := s.skip.pos + 1 }
          out := s.out ++ [.response 0x00000000] }
      else if s.spiTx.cnt = s.cfg.N then .next { s with out := s.out ++ [.response 0x00010000] }
      else
        .next { s with
          spiTx := { s.spiTx with
            buf := s.spiTx.buf.write s.spiTx.wr v
            wr := (s.spiTx.wr + 1) % s.cfg.N
            cnt := s.spiTx.cnt + 1 }
          spi := { s.spi with notify := true }
          skip := { vec := writeBit s.skip.vec s.skip.pos keep, pos := s.skip.pos + 1 }
          out := s.out ++ [.response 0x00000000] }

/-- R102, R103: DEQ.U and DEQ.S, their words, and what they answer and change. -/
def Obligations.DequeueAnswersTheOldestElement : Prop :=
  (∀ w : Width, decodeCommand w 0x02000000 = some .deqU ∧ decodeCommand w 0x02200000 = some .deqS) ∧
  (∀ (s : State) (v : Element),
    (s.uartRx.cnt ≠ 0 → s.uartRx.rd < s.cfg.N ∧ s.uartRx.buf.read s.uartRx.rd = some v) →
    exec .deqU s =
      if s.uartRx.cnt = 0 then .next { s with out := s.out ++ [.response 0x00020000] }
      else
        .next { s with
          uartRx := { s.uartRx with rd := (s.uartRx.rd + 1) % s.cfg.N, cnt := s.uartRx.cnt - 1 }
          out := s.out ++ [.response (v.setWidth 32)] }) ∧
  (∀ (s : State) (v : Element),
    (s.spiRx.cnt ≠ 0 → s.spiRx.rd < s.cfg.N ∧ s.spiRx.buf.read s.spiRx.rd = some v) →
    exec .deqS s =
      if s.spiRx.cnt = 0 then .next { s with out := s.out ++ [.response 0x00020000] }
      else
        .next { s with
          spiRx := { s.spiRx with rd := (s.spiRx.rd + 1) % s.cfg.N, cnt := s.spiRx.cnt - 1 }
          out := s.out ++ [.response (v.setWidth 32)] })

/-- R104, R160: RST of each channel, its word, and everything it leaves unchanged (the array, `slot`, `hook`, the other channels). -/
def Obligations.RstClearsTheChannelAndItsDriver : Prop :=
  (∀ (w : Width) (c : Channel), decodeCommand w (0x03000000 ||| (channelNumber c).setWidth 32 <<< 20) = some (.rst c)) ∧
  ∀ s : State,
    exec (.rst .uartRx) s =
      .next { s with uartRx := { s.uartRx with rd := 0, wr := 0, cnt := 0 }, out := s.out ++ [.response 0x00000000] } ∧
    exec (.rst .spiRx) s =
      .next { s with spiRx := { s.spiRx with rd := 0, wr := 0, cnt := 0 }, out := s.out ++ [.response 0x00000000] } ∧
    exec (.rst .uartTx) s =
      .next { s with
        uartTx := { s.uartTx with rd := 0, wr := 0, cnt := 0 }
        uart := { s.uart with loaded := false, notify := false }
        out := s.out ++ [.response 0x00000000] } ∧
    exec (.rst .spiTx) s =
      .next { s with
        spiTx := { s.spiTx with rd := 0, wr := 0, cnt := 0 }
        spi := { s.spi with loaded := false, notify := false }
        skip := { vec := 0, pos := 0 }
        out := s.out ++ [.response 0x00000000] }

/-- R105, R106: EMPTY and FULL of each channel, their words, and that they only answer. -/
def Obligations.EmptyAndFullAnswerFromTheOccupancy : Prop :=
  (∀ (w : Width) (c : Channel),
    decodeCommand w (0x04000000 ||| (channelNumber c).setWidth 32 <<< 20) = some (.empty c) ∧
    decodeCommand w (0x05000000 ||| (channelNumber c).setWidth 32 <<< 20) = some (.full c)) ∧
  ∀ (s : State) (c : Channel),
    exec (.empty c) s =
      .next { s with out := s.out ++ [.response (if (s.ring c).cnt = 0 then 0x00000001 else 0x00000000)] } ∧
    exec (.full c) s =
      .next { s with out := s.out ++ [.response (if (s.ring c).cnt = s.cfg.N then 0x00000001 else 0x00000000)] }

/-- R107, R108: HOOKSET and HOOKCLR of each peripheral, their words, and that they write the one bit. -/
def Obligations.HookCommandsWriteTheHookBit : Prop :=
  (∀ (w : Width) (p : Peripheral),
    decodeCommand w (0x06000000 ||| (peripheralNumber p).setWidth 32 <<< 20) = some (.hookset p) ∧
    decodeCommand w (0x07000000 ||| (peripheralNumber p).setWidth 32 <<< 20) = some (.hookclr p)) ∧
  ∀ s : State,
    exec (.hookset .uart) s = .next { s with uart := { s.uart with hook := true }, out := s.out ++ [.response 0x00000000] } ∧
    exec (.hookclr .uart) s = .next { s with uart := { s.uart with hook := false }, out := s.out ++ [.response 0x00000000] } ∧
    exec (.hookset .spi) s = .next { s with spi := { s.spi with hook := true }, out := s.out ++ [.response 0x00000000] } ∧
    exec (.hookclr .spi) s = .next { s with spi := { s.spi with hook := false }, out := s.out ++ [.response 0x00000000] }

/-- R99, R112: every command answers with exactly one response and no other record, and one whose status is not `Ok` leaves every other
part of the state as it was. -/
def Obligations.RejectedCommandChangesNothing : Prop :=
  ∀ (i : Instr) (s t : State), eventOf i = none → exec i s = .next t ∨ execIllegal s = .next t →
    ∃ x, t.out = s.out ++ [.response x] ∧ (responseStatus x ≠ 0 → t = { s with out := s.out ++ [.response x] })

/-- R111, the port-level capacity law: from Idle, `N + 1` consecutive ENQ commands on `TX(p)` are accepted and the next is refused. -/
def Obligations.PortAcceptsCapacityPlusOne : Prop :=
  (∀ (s : State) (vs : List Element), s.WF → s.fsm .uart = .idle → vs.length = s.cfg.N + 2 →
    (∀ v ∈ vs, s.cfg.W.fits v = true) →
    ∃ t, runInstrs (vs.map .enqU) s = some t ∧
      newOutputs s t = List.replicate (s.cfg.N + 1) (.response 0x00000000) ++ [.response 0x00010000]) ∧
  (∀ (s : State) (vs : List (Element × Bool)), s.WF → s.fsm .spi = .idle → vs.length = s.cfg.N + 2 →
    (∀ v ∈ vs, s.cfg.W.fits v.1 = true) →
    ∃ t, runInstrs (vs.map (fun v => .enqS v.1 v.2)) s = some t ∧
      newOutputs s t = List.replicate (s.cfg.N + 1) (.response 0x00000000) ++ [.response 0x00010000])

/-- R111 with events of the other peripheral falling anywhere between the commands ("with no event of `p` in between"): the `N + 2` ENQ
commands are answered as if those events were not there, and the sequence completes. -/
def Obligations.PortCapacityAmongEventsOfTheOtherPeripheral : Prop :=
  ∀ (p : Peripheral) (is : List Instr) (s : State), s.WF → s.fsm p = .idle →
    (∀ i ∈ is, i.wellFormed s.cfg.W = true ∧ (offeredBy p i ≠ none ∨ (eventOf i ≠ none ∧ eventOf i ≠ some p))) →
    is.countP (fun i => (offeredBy p i).isSome) = s.cfg.N + 2 →
    ∃ t, runInstrs is s = some t ∧
      responsesOf (newOutputs s t) = List.replicate (s.cfg.N + 1) 0x00000000 ++ [0x00010000]

/-- R106, R175: a TX channel that answers FULL with 0 accepts the next ENQ, whatever events fall between. -/
def Obligations.NotFullGuaranteesTheNextEnqueue : Prop :=
  ∀ (p : Peripheral) (s a t : State) (events : List Instr) (i : Instr), s.WF →
    exec (.full (txOf p)) s = .next a → newOutputs s a = [.response 0x00000000] →
    (∀ e ∈ events, eventOf e ≠ none ∧ e.wellFormed s.cfg.W = true) → runInstrs events a = some t →
    offeredBy p i ≠ none → ∃ u, exec i t = .next u ∧ newOutputs t u = [.response 0x00000000]

/-- R78, R175: an RX channel that answers EMPTY with 0 gives the next DEQ an element, whatever events fall between; so the DEQ at the end
of WAITDEQ cannot return `BufferEmpty`. -/
def Obligations.NotEmptyGuaranteesTheNextDequeue : Prop :=
  ∀ (p : Peripheral) (s a t : State) (events : List Instr), s.WF →
    exec (.empty (rxOf p)) s = .next a → newOutputs s a = [.response 0x00000000] →
    (∀ e ∈ events, eventOf e ≠ none ∧ e.wellFormed s.cfg.W = true) → runInstrs events a = some t →
    ∃ u x, exec (deqOf p) t = .next u ∧ newOutputs t u = [.response x] ∧ responseStatus x = 0

/-! ## Events (43_exchange_driver.md) -/

/-- R116, R120, R122, R131, R132: XCHG.U, its word, and everything it does and leaves, on every state whose two UART indices are legal. -/
def Obligations.XchgUHarvestsAndRefills : Prop :=
  (∀ (w : Width) (rx : Element), decodeEvent w (0x80000000 ||| rx.setWidth 32) =
    if rx.toNat < 2 ^ w.bits then some (.xchgU rx) else none) ∧
  ∀ (s : State) (rx v : Element), s.uartRx.wr < s.cfg.N →
    (s.uartTx.cnt ≠ 0 → s.uartTx.rd < s.cfg.N ∧ s.uartTx.buf.read s.uartTx.rd = some v) →
    exec (.xchgU rx) s =
      .next { s with
        uartRx :=
          if s.uartRx.cnt = s.cfg.N then s.uartRx
          else { s.uartRx with
            buf := s.uartRx.buf.write s.uartRx.wr rx
            wr := (s.uartRx.wr + 1) % s.cfg.N
            cnt := s.uartRx.cnt + 1 }
        uartTx :=
          if s.uartTx.cnt = 0 then s.uartTx
          else { s.uartTx with rd := (s.uartTx.rd + 1) % s.cfg.N, cnt := s.uartTx.cnt - 1 }
        uart :=
          if s.uartTx.cnt = 0 then { s.uart with loaded := false, notify := false }
          else { s.uart with slot := v, loaded := true, notify := true }
        out := s.out ++ (if s.uart.loaded then [.txOut .uart s.uart.slot] else []) ++
          (if s.uart.hook then [.hook .uart] else []) }

/-- R117, R119, R120, R121, R131, R132: XCHG.S, its word, and everything it does and leaves, on every state whose two SPI indices are legal.
What an idle exchange transmits is some `W`-bit value, and the statement says nothing more of it. -/
def Obligations.XchgSConsumesHarvestsAndRefills : Prop :=
  (∀ (w : Width) (rx : Element), decodeEvent w (0x80100000 ||| rx.setWidth 32) =
    if rx.toNat < 2 ^ w.bits then some (.xchgS rx) else none) ∧
  ∀ (s : State) (rx v : Element), s.spiRx.wr < s.cfg.N →
    (s.spiTx.cnt ≠ 0 → s.spiTx.rd < s.cfg.N ∧ s.spiTx.buf.read s.spiTx.rd = some v) →
    ∃ drawn, s.cfg.W.fits drawn = true ∧
      exec (.xchgS rx) s =
        .next { s with
          skip := if s.skip.pos = 0 then s.skip else { vec := s.skip.vec >>> 1, pos := s.skip.pos - 1 }
          spiRx :=
            if (if s.skip.pos = 0 then s.cfg.idleKeep else s.skip.vec.testBit 0) = true ∧ s.spiRx.cnt ≠ s.cfg.N then
              { s.spiRx with
                buf := s.spiRx.buf.write s.spiRx.wr rx
                wr := (s.spiRx.wr + 1) % s.cfg.N
                cnt := s.spiRx.cnt + 1 }
            else s.spiRx
          spiTx :=
            if s.spiTx.cnt = 0 then s.spiTx
            else { s.spiTx with rd := (s.spiTx.rd + 1) % s.cfg.N, cnt := s.spiTx.cnt - 1 }
          spi :=
            if s.spiTx.cnt = 0 then { s.spi with loaded := false, notify := false }
            else { s.spi with slot := v, loaded := true, notify := true }
          draws := if s.spi.loaded then s.draws else s.draws + 1
          out := s.out ++ [.txOut .spi (if s.spi.loaded then s.spi.slot else drawn)] ++
            (if s.spi.hook then [.hook .spi] else []) }

/-- R115: the transition table of `fsm[p]`, with the statuses of its ENQ column. -/
def Obligations.DriverTransitionTable : Prop :=
  ∀ (s t : State) (p : Peripheral) (i : Instr), s.WF →
    (exec i s = .next t →
      t.fsm p =
        (if offeredBy p i ≠ none then (if s.fsm p = .idle then .loaded else .draining)
         else if eventOf i = some p then
          (if (s.ring (txOf p)).cnt = 0 then .idle else if (s.ring (txOf p)).cnt = 1 then .loaded else .draining)
         else if i = .rst (txOf p) then .idle
         else s.fsm p) ∧
      (offeredBy p i ≠ none →
        newOutputs s t =
          if s.fsm p = .draining ∧ (s.ring (txOf p)).cnt = s.cfg.N then [.response 0x00010000]
          else [.response 0x00000000])) ∧
    (execIllegal s = .next t → t.fsm p = s.fsm p)

/-- R126, the wire order law: between two RSTs of `TX(p)`, however events and commands interleave, what was in flight and what is
accepted comes out on the wire in that order; what is not out yet is what is in flight at the end. With nothing in flight at the start (after
reset, or after an RST), what is sent is a prefix of what is accepted. -/
def Obligations.WireOrderLaw : Prop :=
  ∀ (p : Peripheral) (is : List Instr) (s : State), s.WF → (∀ i ∈ is, i.wellFormed s.cfg.W = true) →
    Instr.rst (txOf p) ∉ is →
    ∃ t, runInstrs is s = some t ∧ s.inflight p ++ acceptedValues p is s = sentValues p is s ++ t.inflight p ∧
      (s.inflight p = [] → sentValues p is s <+: acceptedValues p is s)

/-- R119: the `j`-th accepted ENQ.S's value and decision belong to the same event, the `j`-th loaded exchange. -/
def Obligations.DecisionTravelsWithItsElement : Prop :=
  ∀ (is : List Instr) (s : State), s.WF → (∀ i ∈ is, i.wellFormed s.cfg.W = true) → Instr.rst .spiTx ∉ is →
    ∃ t, runInstrs is s = some t ∧ s.inflightPairs ++ acceptedPairs is s = sentPairs is s ++ t.inflightPairs

/-- R61, R127: what was queued in `RX(p)` and what the events store (for the SPI, exactly the companions whose decision was keep and
that found room) comes out of the DEQ responses in that order. -/
def Obligations.ReceivedElementsAreDeliveredInOrder : Prop :=
  ∀ (p : Peripheral) (is : List Instr) (s : State), s.WF → (∀ i ∈ is, i.wellFormed s.cfg.W = true) →
    Instr.rst (rxOf p) ∉ is →
    ∃ t, runInstrs is s = some t ∧
      s.queue (rxOf p) ++ storedValues p is s = deliveredValues p is s ++ t.queue (rxOf p)

/-- R134: the SPI side of the register model is the list-level reference machine, operation by operation, with the same records; and its
correspondence of `loaded`, `cnt` and `pos` with `|F|`. -/
def Obligations.SpiRefinesTheListReference : Prop :=
  ∀ (s : State) (i : Instr), s.WF → i.wellFormed s.cfg.W = true →
    (s.spi.loaded = decide (1 ≤ s.absSpi.F.length) ∧ s.spiTx.cnt = s.absSpi.F.length - 1 ∧
      s.skip.pos = s.absSpi.F.length ∧ s.absSpi.F.length ≤ s.cfg.N + 1 ∧ s.absSpi.Q.length ≤ s.cfg.N) ∧
    ∃ t drawn, s.cfg.W.fits drawn = true ∧ exec i s = .next t ∧
      match refSpi s.cfg drawn i s.absSpi with
      | some (a, records) => t.absSpi = a ∧ t.out = s.out ++ records
      | none => t.absSpi = s.absSpi

/-- R135: the UART side of the register model is the list-level reference machine, operation by operation, with the same records. -/
def Obligations.UartRefinesTheListReference : Prop :=
  ∀ (s : State) (i : Instr), s.WF → i.wellFormed s.cfg.W = true →
    (s.uart.loaded = decide (1 ≤ s.absUart.F.length) ∧ s.uartTx.cnt = s.absUart.F.length - 1 ∧
      s.absUart.F.length ≤ s.cfg.N + 1 ∧ s.absUart.Q.length ≤ s.cfg.N) ∧
    ∃ t, exec i s = .next t ∧
      match refUart s.cfg i s.absUart with
      | some (a, records) => t.absUart = a ∧ t.out = s.out ++ records
      | none => t.absUart = s.absUart

/-! ## Frames and ownership (10_state.md R43, 20_memory.md R48) -/

/-- R48: an operation stores at most one element, at the write index of the one ring it pushes to; every other location of every array
reads as before. -/
def Obligations.OnlyTheWriteIndexIsStored : Prop :=
  ∀ (i : Instr) (s t : State), exec i s = .next t →
    ∀ (c : Channel) (j : Nat), s.storeAddressOf i ≠ some (c, j) → t.readElement c j = s.readElement c j

/-- R43: which side writes which state. A command leaves the handler's columns alone (but for RST), an event leaves the foreground's. -/
def Obligations.OwnershipOfWrites : Prop :=
  ∀ (i : Instr) (s t : State) (p : Peripheral), exec i s = .next t →
    (eventOf i ≠ none →
      (t.ring (txOf p)).buf = (s.ring (txOf p)).buf ∧ (t.ring (txOf p)).wr = (s.ring (txOf p)).wr ∧
      (t.ring (rxOf p)).rd = (s.ring (rxOf p)).rd ∧ (t.driver p).hook = (s.driver p).hook ∧
      (t.ring (txOf p)).cnt ≤ (s.ring (txOf p)).cnt ∧ (s.ring (rxOf p)).cnt ≤ (t.ring (rxOf p)).cnt ∧
      t.skip.pos ≤ s.skip.pos) ∧
    (eventOf i = none → i ≠ .rst (txOf p) →
      (t.ring (txOf p)).rd = (s.ring (txOf p)).rd ∧ (s.ring (txOf p)).cnt ≤ (t.ring (txOf p)).cnt ∧
      ((s.driver p).loaded = true → (t.driver p).loaded = true ∧ (t.driver p).slot = (s.driver p).slot)) ∧
    (eventOf i = none → i ≠ .rst (rxOf p) →
      (t.ring (rxOf p)).buf = (s.ring (rxOf p)).buf ∧ (t.ring (rxOf p)).wr = (s.ring (rxOf p)).wr ∧
      (t.ring (rxOf p)).cnt ≤ (s.ring (rxOf p)).cnt) ∧
    (eventOf i = none → i ≠ .rst .spiTx → s.skip.pos ≤ t.skip.pos) ∧
    (i ≠ .hookset p → i ≠ .hookclr p → (t.driver p).hook = (s.driver p).hook)

/-- R113, R143: "The two instances share no state and never interact": an operation leaves every part of the peripheral it does not belong
to as it was, and the configuration and the inputs as well. -/
def Obligations.PeripheralsDoNotInterfere : Prop :=
  ∀ (i : Instr) (s t : State), exec i s = .next t → t.cfg = s.cfg ∧ t.schedule = s.schedule ∧
    (∀ p, p ≠ ownerOf i → t.driver p = s.driver p) ∧
    (∀ c, periph c ≠ ownerOf i → t.ring c = s.ring c) ∧
    (ownerOf i = .uart → t.skip = s.skip ∧ t.draws = s.draws)

/-- R26, R128: `notify[p]` is read by no rule: an operation run with another value of it does the same, but for that bit. -/
def Obligations.NotifyIsOnlyAnOutput : Prop :=
  ∀ (i : Instr) (s t : State) (p : Peripheral) (b : Bool), exec i s = .next t →
    ∃ b', exec i (s.setDriver p { s.driver p with notify := b }) =
      .next (t.setDriver p { t.driver p with notify := b' })

/-- R8: "Any `V >= N + 1` gives the same observable behaviour": an operation run with another admissible `V` does the same. -/
def Obligations.VectorWidthIsUnobservable : Prop :=
  ∀ (i : Instr) (s t : State) (V : Nat), s.WF → s.cfg.N + 1 ≤ V → exec i s = .next t →
    exec i { s with cfg := { s.cfg with V := V } } = .next { t with cfg := { t.cfg with V := V } }

/-! ## Invariants (10_state.md R44, R45) -/

/-- R44: the reset state is well-formed, for every admitted configuration, whatever is presented to it. -/
def Obligations.ResetStateIsWellFormed : Prop :=
  (∀ (c : Config) (q : List Period), c.WF → ((State.resetWith c).setSchedule q).WF) ∧ State.reset.WF

/-- R44: every step preserves well-formedness; and no step changes the parameters ("fixed before reset and never changes"). -/
def Obligations.StepKeepsWellFormed : Prop :=
  ∀ s t : State, s.WF → step s = .next t → t.WF ∧ t.cfg = s.cfg

/-- R22, R23, R31, R32, R35, R36: what holds in every reachable state. -/
def Obligations.ReachableStateInvariants : Prop :=
  ∀ (c : Config) (s : State), c.WF → Reachable c s →
    s.cfg = c ∧
    (∀ ch, (s.ring ch).cnt ≤ c.N ∧ (s.ring ch).wr = ((s.ring ch).rd + (s.ring ch).cnt) % c.N) ∧
    s.skip.pos = s.spiTx.cnt + s.spi.loaded.toNat ∧ s.skip.pos ≤ c.N + 1 ∧
    (∀ k, s.skip.pos ≤ k → s.skip.vec.testBit k = false) ∧
    (∀ p, (s.driver p).loaded = false → (s.ring (txOf p)).cnt = 0) ∧
    (∀ p, 0 < (s.ring (txOf p)).cnt → (s.driver p).notify = true)

/-- R110, R140: "Nothing in this core is fatal; there are no unrecoverable states": from a well-formed state and a stimulus that spells
events, every run of any length goes on, and stays so. -/
def Obligations.NothingIsFatal : Prop :=
  ∀ (k : Nat) (s : State), s.Safe → ∃ t, Host.Core.run Sys2Proof.core k s = .next t ∧ t.Safe

/-- R45: two well-formed states with equal views are indistinguishable by any sequence of operations: from one, a run of any length ends
in a state indistinguishable from the end of the same run from the other, the responses and records included. -/
def Obligations.EqualViewsAreIndistinguishable : Prop :=
  ∀ (k : Nat) (s s' t : State), s.WF → s'.WF → s.Indistinguishable s' →
    Host.Core.run Sys2Proof.core k s = .next t →
    ∃ t', Host.Core.run Sys2Proof.core k s' = .next t' ∧ t.Indistinguishable t'
end

