-- ==== Sys2Proof/Laws/Fields.lean ====
section
/-!
SUPPORT. The fields of the words the encoder builds (30_encoding.md R64, R72).
-/
namespace Sys2Proof

variable (op : BitVec 8) (sel : BitVec 4) (k : Bool) (data : Element)

@[simp] theorem fieldOp_commandWord : fieldOp (commandWord op sel k data) = op := by
  ext i hi; simp only [fieldOp, commandWord]
  interval_cases i <;> simp

@[simp] theorem fieldSel_commandWord : fieldSel (commandWord op sel k data) = sel := by
  ext i hi; simp only [fieldSel, commandWord]
  interval_cases i <;> simp

@[simp] theorem fieldZ_commandWord : fieldZ (commandWord op sel k data) = 0 := by
  ext i hi; simp only [fieldZ, commandWord]
  interval_cases i <;> simp

@[simp] theorem fieldK_commandWord : fieldK (commandWord op sel k data) = k := by
  simp [fieldK, commandWord]

@[simp] theorem fieldData_commandWord : fieldData (commandWord op sel k data) = data := by
  ext i hi; simp only [fieldData, commandWord]
  interval_cases i <;> simp

@[simp] theorem isEventWord_commandWord : isEventWord (commandWord op sel k data) = op.getLsbD 7 := by
  simp [isEventWord, commandWord]

@[simp] theorem fieldOp_eventWord : fieldOp (eventWord sel data) = 0x80 := by
  ext i hi; simp only [fieldOp, eventWord]
  interval_cases i <;> simp

@[simp] theorem fieldSel_eventWord : fieldSel (eventWord sel data) = sel := by
  ext i hi; simp only [fieldSel, eventWord]
  interval_cases i <;> simp

@[simp] theorem fieldEventZ_eventWord : fieldEventZ (eventWord sel data) = 0 := by
  ext i hi; simp only [fieldEventZ, eventWord]
  interval_cases i <;> simp

@[simp] theorem fieldData_eventWord : fieldData (eventWord sel data) = data := by
  ext i hi; simp only [fieldData, eventWord]
  interval_cases i <;> simp

@[simp] theorem isEventWord_eventWord : isEventWord (eventWord sel data) = true := by
  simp [isEventWord, eventWord]

end Sys2Proof
end

