-- ==== Sys2Proof/Laws/Memory.lean ====
section
/-!
SUPPORT. The laws of the backing arrays (20_memory.md R47): a read after a write, the canonical form, the range.
-/
namespace Sys2Proof.Machine

@[simp] theorem Memory.read_nil (i : Nat) : Memory.read [] i = none := rfl

/-- A read at the index just written gives the element written. -/
@[simp] theorem Memory.read_write_same (m : Memory) (i : Nat) (v : Element) : (m.write i v).read i = some v := by
  induction m with
  | nil => simp [Memory.write, Memory.read]
  | cons a m ih =>
    obtain ⟨a, x⟩ := a
    simp only [Memory.write]
    split
    · simp [Memory.read]
    · split
      · simp [Memory.read]
      · simp only [Memory.read]
        rw [if_neg (by omega), ih]

/-- A write leaves every other index alone. -/
theorem Memory.read_write_of_ne {m : Memory} {i j : Nat} {v : Element} (h : j ≠ i) : (m.write i v).read j = m.read j := by
  induction m with
  | nil => simp [Memory.write, Memory.read, Ne.symm h]
  | cons a m ih =>
    obtain ⟨a, x⟩ := a
    simp only [Memory.write]
    split
    · simp [Memory.read, Ne.symm h]
    · split
      · subst_vars
        simp [Memory.read, Ne.symm h]
      · simp only [Memory.read]
        rw [ih]

/-- The cells of an array after a write are the written one or cells of the array before. -/
theorem Memory.mem_write {m : Memory} {i : Nat} {v : Element} {x : Cell} (h : x ∈ m.write i v) : x = (i, v) ∨ x ∈ m := by
  induction m with
  | nil => simpa [Memory.write] using h
  | cons a m ih =>
    obtain ⟨a, y⟩ := a
    simp only [Memory.write] at h
    split at h
    · simpa using h
    · split at h
      · rcases List.mem_cons.1 h with h | h
        · exact .inl h
        · exact .inr (List.mem_cons_of_mem _ h)
      · rcases List.mem_cons.1 h with h | h
        · exact .inr (h ▸ List.mem_cons_self)
        · exact (ih h).imp_right (List.mem_cons_of_mem _)

/-- A write keeps the canonical form. -/
theorem Memory.wf_write {m : Memory} (h : m.wf) (i : Nat) (v : Element) : (m.write i v).wf := by
  induction m with
  | nil => simp [Memory.write, Memory.wf]
  | cons a m ih =>
    obtain ⟨a, x⟩ := a
    have hh := List.pairwise_cons.1 h
    simp only [Memory.write]
    split
    · rename_i hlt
      refine List.pairwise_cons.2 ⟨fun y hy => ?_, h⟩
      rcases List.mem_cons.1 hy with rfl | hy
      · exact hlt
      · exact Nat.lt_trans hlt (hh.1 y hy)
    · split
      · subst_vars
        exact List.pairwise_cons.2 ⟨hh.1, hh.2⟩
      · refine List.pairwise_cons.2 ⟨fun y hy => ?_, ih hh.2⟩
        rcases Memory.mem_write hy with rfl | hy
        · simp only
          omega
        · exact hh.1 y hy

/-- A write of an in-range element at an existing location keeps the range. -/
theorem MemoryInRange.write {c : Config} {m : Memory} (h : MemoryInRange c m) {i : Nat} {v : Element} (hi : i < c.N)
    (hv : c.W.fits v = true) : MemoryInRange c (m.write i v) := by
  intro x hx
  rcases Memory.mem_write hx with rfl | hx
  · exact ⟨hi, hv⟩
  · exact h x hx

/-- What is read is a listed cell. -/
theorem Memory.mem_of_read {m : Memory} {i : Nat} {v : Element} (h : m.read i = some v) : (i, v) ∈ m := by
  induction m with
  | nil => simp at h
  | cons a m ih =>
    obtain ⟨a, x⟩ := a
    simp only [Memory.read] at h
    split at h
    · simp_all
    · exact List.mem_cons_of_mem _ (ih h)

/-- An element read from an array in range is a `W`-bit element. -/
theorem MemoryInRange.read {c : Config} {m : Memory} (h : MemoryInRange c m) {i : Nat} {v : Element} (hr : m.read i = some v) :
    c.W.fits v = true := (h _ (Memory.mem_of_read hr)).2

/-- The arrays of the reset state are in canonical form. -/
theorem Ring.reset_wf : Ring.reset.buf.wf := by simp [Ring.reset, Memory.wf]

end Sys2Proof.Machine
end

