-- ==== Sys2Proof/Laws/State.lean ====
section
/-!
SUPPORT. The small lemmas of State: one per field per update, so that no later proof unfolds a record update.
-/
namespace Sys2Proof.Machine

variable (s : State) (c : Channel) (p : Peripheral) (r : Ring) (d : Driver) (f : SkipFlags) (o : Output) (q : List Period)

/-! ### Reading by operand -/

@[simp] theorem State.ring_uartRx : s.ring .uartRx = s.uartRx := rfl
@[simp] theorem State.ring_uartTx : s.ring .uartTx = s.uartTx := rfl
@[simp] theorem State.ring_spiRx : s.ring .spiRx = s.spiRx := rfl
@[simp] theorem State.ring_spiTx : s.ring .spiTx = s.spiTx := rfl
@[simp] theorem State.driver_uart : s.driver .uart = s.uart := rfl
@[simp] theorem State.driver_spi : s.driver .spi = s.spi := rfl
@[simp] theorem txOf_uart : txOf .uart = .uartTx := rfl
@[simp] theorem rxOf_uart : rxOf .uart = .uartRx := rfl
@[simp] theorem txOf_spi : txOf .spi = .spiTx := rfl
@[simp] theorem rxOf_spi : rxOf .spi = .spiRx := rfl

/-! ### setRing -/

@[simp] theorem State.setRing_cfg : (s.setRing c r).cfg = s.cfg := by cases c <;> rfl
@[simp] theorem State.setRing_uart : (s.setRing c r).uart = s.uart := by cases c <;> rfl
@[simp] theorem State.setRing_spi : (s.setRing c r).spi = s.spi := by cases c <;> rfl
@[simp] theorem State.setRing_skip : (s.setRing c r).skip = s.skip := by cases c <;> rfl
@[simp] theorem State.setRing_draws : (s.setRing c r).draws = s.draws := by cases c <;> rfl
@[simp] theorem State.setRing_schedule : (s.setRing c r).schedule = s.schedule := by cases c <;> rfl
@[simp] theorem State.setRing_out : (s.setRing c r).out = s.out := by cases c <;> rfl
@[simp] theorem State.setRing_driver : (s.setRing c r).driver p = s.driver p := by cases c <;> cases p <;> rfl
@[simp] theorem State.setRing_ring_same : (s.setRing c r).ring c = r := by cases c <;> rfl
theorem State.setRing_ring_of_ne {s : State} {c e : Channel} {r : Ring} (h : e ≠ c) : (s.setRing c r).ring e = s.ring e := by
  cases c <;> cases e <;> first | rfl | exact absurd rfl h
@[simp] theorem State.setRing_uartRx_uartRx : (s.setRing .uartRx r).uartRx = r := rfl
@[simp] theorem State.setRing_uartRx_uartTx : (s.setRing .uartRx r).uartTx = s.uartTx := rfl
@[simp] theorem State.setRing_uartRx_spiRx : (s.setRing .uartRx r).spiRx = s.spiRx := rfl
@[simp] theorem State.setRing_uartRx_spiTx : (s.setRing .uartRx r).spiTx = s.spiTx := rfl
@[simp] theorem State.setRing_uartTx_uartRx : (s.setRing .uartTx r).uartRx = s.uartRx := rfl
@[simp] theorem State.setRing_uartTx_uartTx : (s.setRing .uartTx r).uartTx = r := rfl
@[simp] theorem State.setRing_uartTx_spiRx : (s.setRing .uartTx r).spiRx = s.spiRx := rfl
@[simp] theorem State.setRing_uartTx_spiTx : (s.setRing .uartTx r).spiTx = s.spiTx := rfl
@[simp] theorem State.setRing_spiRx_uartRx : (s.setRing .spiRx r).uartRx = s.uartRx := rfl
@[simp] theorem State.setRing_spiRx_uartTx : (s.setRing .spiRx r).uartTx = s.uartTx := rfl
@[simp] theorem State.setRing_spiRx_spiRx : (s.setRing .spiRx r).spiRx = r := rfl
@[simp] theorem State.setRing_spiRx_spiTx : (s.setRing .spiRx r).spiTx = s.spiTx := rfl
@[simp] theorem State.setRing_spiTx_uartRx : (s.setRing .spiTx r).uartRx = s.uartRx := rfl
@[simp] theorem State.setRing_spiTx_uartTx : (s.setRing .spiTx r).uartTx = s.uartTx := rfl
@[simp] theorem State.setRing_spiTx_spiRx : (s.setRing .spiTx r).spiRx = s.spiRx := rfl
@[simp] theorem State.setRing_spiTx_spiTx : (s.setRing .spiTx r).spiTx = r := rfl

/-! ### setDriver -/

@[simp] theorem State.setDriver_cfg : (s.setDriver p d).cfg = s.cfg := by cases p <;> rfl
@[simp] theorem State.setDriver_uartRx : (s.setDriver p d).uartRx = s.uartRx := by cases p <;> rfl
@[simp] theorem State.setDriver_uartTx : (s.setDriver p d).uartTx = s.uartTx := by cases p <;> rfl
@[simp] theorem State.setDriver_spiRx : (s.setDriver p d).spiRx = s.spiRx := by cases p <;> rfl
@[simp] theorem State.setDriver_spiTx : (s.setDriver p d).spiTx = s.spiTx := by cases p <;> rfl
@[simp] theorem State.setDriver_skip : (s.setDriver p d).skip = s.skip := by cases p <;> rfl
@[simp] theorem State.setDriver_draws : (s.setDriver p d).draws = s.draws := by cases p <;> rfl
@[simp] theorem State.setDriver_schedule : (s.setDriver p d).schedule = s.schedule := by cases p <;> rfl
@[simp] theorem State.setDriver_out : (s.setDriver p d).out = s.out := by cases p <;> rfl
@[simp] theorem State.setDriver_ring : (s.setDriver p d).ring c = s.ring c := by cases c <;> cases p <;> rfl
@[simp] theorem State.setDriver_driver_same : (s.setDriver p d).driver p = d := by cases p <;> rfl
theorem State.setDriver_driver_of_ne {s : State} {p e : Peripheral} {d : Driver} (h : e ≠ p) :
    (s.setDriver p d).driver e = s.driver e := by
  cases p <;> cases e <;> first | rfl | exact absurd rfl h
@[simp] theorem State.setDriver_uart_uart : (s.setDriver .uart d).uart = d := rfl
@[simp] theorem State.setDriver_uart_spi : (s.setDriver .uart d).spi = s.spi := rfl
@[simp] theorem State.setDriver_spi_uart : (s.setDriver .spi d).uart = s.uart := rfl
@[simp] theorem State.setDriver_spi_spi : (s.setDriver .spi d).spi = d := rfl

/-! ### setSkip -/

@[simp] theorem State.setSkip_cfg : (s.setSkip f).cfg = s.cfg := rfl
@[simp] theorem State.setSkip_uartRx : (s.setSkip f).uartRx = s.uartRx := rfl
@[simp] theorem State.setSkip_uartTx : (s.setSkip f).uartTx = s.uartTx := rfl
@[simp] theorem State.setSkip_spiRx : (s.setSkip f).spiRx = s.spiRx := rfl
@[simp] theorem State.setSkip_spiTx : (s.setSkip f).spiTx = s.spiTx := rfl
@[simp] theorem State.setSkip_uart : (s.setSkip f).uart = s.uart := rfl
@[simp] theorem State.setSkip_spi : (s.setSkip f).spi = s.spi := rfl
@[simp] theorem State.setSkip_skip : (s.setSkip f).skip = f := rfl
@[simp] theorem State.setSkip_draws : (s.setSkip f).draws = s.draws := rfl
@[simp] theorem State.setSkip_schedule : (s.setSkip f).schedule = s.schedule := rfl
@[simp] theorem State.setSkip_out : (s.setSkip f).out = s.out := rfl
@[simp] theorem State.setSkip_ring : (s.setSkip f).ring c = s.ring c := by cases c <;> rfl
@[simp] theorem State.setSkip_driver : (s.setSkip f).driver p = s.driver p := by cases p <;> rfl

/-! ### emit -/

@[simp] theorem State.emit_cfg : (s.emit o).cfg = s.cfg := rfl
@[simp] theorem State.emit_uartRx : (s.emit o).uartRx = s.uartRx := rfl
@[simp] theorem State.emit_uartTx : (s.emit o).uartTx = s.uartTx := rfl
@[simp] theorem State.emit_spiRx : (s.emit o).spiRx = s.spiRx := rfl
@[simp] theorem State.emit_spiTx : (s.emit o).spiTx = s.spiTx := rfl
@[simp] theorem State.emit_uart : (s.emit o).uart = s.uart := rfl
@[simp] theorem State.emit_spi : (s.emit o).spi = s.spi := rfl
@[simp] theorem State.emit_skip : (s.emit o).skip = s.skip := rfl
@[simp] theorem State.emit_draws : (s.emit o).draws = s.draws := rfl
@[simp] theorem State.emit_schedule : (s.emit o).schedule = s.schedule := rfl
@[simp] theorem State.emit_out : (s.emit o).out = s.out ++ [o] := rfl
@[simp] theorem State.emit_ring : (s.emit o).ring c = s.ring c := by cases c <;> rfl
@[simp] theorem State.emit_driver : (s.emit o).driver p = s.driver p := by cases p <;> rfl

/-! ### setSchedule -/

@[simp] theorem State.setSchedule_cfg : (s.setSchedule q).cfg = s.cfg := rfl
@[simp] theorem State.setSchedule_uartRx : (s.setSchedule q).uartRx = s.uartRx := rfl
@[simp] theorem State.setSchedule_uartTx : (s.setSchedule q).uartTx = s.uartTx := rfl
@[simp] theorem State.setSchedule_spiRx : (s.setSchedule q).spiRx = s.spiRx := rfl
@[simp] theorem State.setSchedule_spiTx : (s.setSchedule q).spiTx = s.spiTx := rfl
@[simp] theorem State.setSchedule_uart : (s.setSchedule q).uart = s.uart := rfl
@[simp] theorem State.setSchedule_spi : (s.setSchedule q).spi = s.spi := rfl
@[simp] theorem State.setSchedule_skip : (s.setSchedule q).skip = s.skip := rfl
@[simp] theorem State.setSchedule_draws : (s.setSchedule q).draws = s.draws := rfl
@[simp] theorem State.setSchedule_schedule : (s.setSchedule q).schedule = q := rfl
@[simp] theorem State.setSchedule_out : (s.setSchedule q).out = s.out := rfl
@[simp] theorem State.setSchedule_ring : (s.setSchedule q).ring c = s.ring c := by cases c <;> rfl
@[simp] theorem State.setSchedule_driver : (s.setSchedule q).driver p = s.driver p := by cases p <;> rfl

/-! ### Power-on reset -/

@[simp] theorem powerOnReset_cfg : (powerOnReset s).cfg = s.cfg := rfl
@[simp] theorem powerOnReset_uartRx : (powerOnReset s).uartRx = Ring.reset := rfl
@[simp] theorem powerOnReset_uartTx : (powerOnReset s).uartTx = Ring.reset := rfl
@[simp] theorem powerOnReset_spiRx : (powerOnReset s).spiRx = Ring.reset := rfl
@[simp] theorem powerOnReset_spiTx : (powerOnReset s).spiTx = Ring.reset := rfl
@[simp] theorem powerOnReset_skip : (powerOnReset s).skip = { vec := 0, pos := 0 } := rfl
@[simp] theorem powerOnReset_draws : (powerOnReset s).draws = s.draws + 2 := rfl
@[simp] theorem powerOnReset_schedule : (powerOnReset s).schedule = s.schedule := rfl
@[simp] theorem powerOnReset_out : (powerOnReset s).out = s.out := rfl

end Sys2Proof.Machine
end

