-- ==== Sys2Proof/Laws/Ops.lean ====
section
/-!
SUPPORT. For each shared operation, one lemma that says once everything it can do; proofs cite these instead of unfolding.
-/
namespace Sys2Proof.Machine

/-- Everything RB.PUSH can do when it succeeds. -/
theorem rbPush_ok {N : Nat} {c : Channel} {v : Element} {r r' : Ring} (h : rbPush N c v r = .ok r') :
    r.cnt ≠ N ∧ r.wr < N ∧ r' = { r with buf := r.buf.write r.wr v, wr := nextIndex N r.wr, cnt := r.cnt + 1 } := by
  unfold rbPush at h
  split at h
  · cases h
  · split at h
    · exact ⟨by simp_all [rbFull], ‹_›, by simpa using h.symm⟩
    · cases h

/-- When RB.PUSH answers `BufferFull`. -/
theorem rbPush_bufferFull {N : Nat} {c : Channel} {v : Element} {r : Ring} : rbPush N c v r = .bufferFull ↔ r.cnt = N := by
  unfold rbPush
  split
  · simp_all [rbFull]
  · split <;> simp_all [rbFull]

/-- When RB.PUSH stops. -/
theorem rbPush_stop {N : Nat} {c : Channel} {v : Element} {r : Ring} {f : Fault} (h : rbPush N c v r = .stop f) :
    r.cnt ≠ N ∧ ¬ r.wr < N ∧ f = .noSuchLocation c r.wr := by
  unfold rbPush at h
  split at h
  · cases h
  · split at h
    · cases h
    · exact ⟨by simp_all [rbFull], ‹_›, by simpa using h.symm⟩

/-- Everything RB.POP can do when it succeeds. -/
theorem rbPop_ok {N : Nat} {c : Channel} {v : Element} {r r' : Ring} (h : rbPop N c r = .ok v r') :
    r.cnt ≠ 0 ∧ r.rd < N ∧ r.buf.read r.rd = some v ∧ r' = { r with rd := nextIndex N r.rd, cnt := r.cnt - 1 } := by
  unfold rbPop at h
  split at h
  · cases h
  · split at h
    · split at h
      · rename_i w hw
        simp only [PopResult.ok.injEq] at h
        exact ⟨by simp_all [rbEmpty], ‹_›, by rw [hw, h.1], h.2.symm⟩
      · cases h
    · cases h

/-- When RB.POP answers `BufferEmpty`. -/
theorem rbPop_bufferEmpty {N : Nat} {c : Channel} {r : Ring} : rbPop N c r = .bufferEmpty ↔ r.cnt = 0 := by
  unfold rbPop
  split
  · simp_all [rbEmpty]
  · split
    · split <;> simp_all [rbEmpty]
    · simp_all [rbEmpty]

/-- When RB.POP stops. -/
theorem rbPop_stop {N : Nat} {c : Channel} {r : Ring} {f : Fault} (h : rbPop N c r = .stop f) :
    r.cnt ≠ 0 ∧ (r.rd < N → r.buf.read r.rd = none) := by
  unfold rbPop at h
  split at h
  · cases h
  · split at h
    · split at h
      · cases h
      · exact ⟨by simp_all [rbEmpty], fun _ => ‹_›⟩
    · exact ⟨by simp_all [rbEmpty], fun hlt => absurd hlt ‹_›⟩

/-- Everything SF.RECORD can do when it succeeds. -/
theorem sfRecord_ok {V : Nat} {keep : Bool} {f g : SkipFlags} (h : sfRecord V keep f = .ok g) :
    f.pos < V ∧ g = { vec := writeBit f.vec f.pos keep, pos := f.pos + 1 } := by
  simp only [sfRecord] at h
  split at h
  · exact ⟨‹_›, by simpa using h.symm⟩
  · cases h

/-- Only the written bit of the vector changes. -/
theorem testBit_writeBit (vec i : Nat) (b : Bool) (j : Nat) :
    (writeBit vec i b).testBit j = if j = i then b else vec.testBit j := by
  unfold writeBit
  split
  · split
    · subst_vars; rfl
    · rfl
  · rename_i h
    rw [Nat.testBit_xor, Nat.testBit_two_pow]
    split
    · subst_vars
      cases b <;> simp_all
    · rename_i hne
      simp [Ne.symm hne]

/-- SF.CONSUME with nothing pending. -/
theorem sfConsume_idle {idleKeep : Bool} {f : SkipFlags} (h : f.pos = 0) : sfConsume idleKeep f = (idleKeep, f) := by
  simp [sfConsume, noDecision, h]

/-- SF.CONSUME with a decision pending. -/
theorem sfConsume_pending {idleKeep : Bool} {f : SkipFlags} (h : f.pos ≠ 0) :
    sfConsume idleKeep f = (f.vec.testBit 0, { vec := f.vec >>> 1, pos := f.pos - 1 }) := by
  simp [sfConsume, noDecision, h]

/-- A response only appends its record. -/
theorem respond_next {st : Status} {data : Element} {s t : State} (h : respond st data s = .next t) :
    t = s.emit (.response (responseWord st data)) := by
  simpa [respond] using h.symm

/-- A failing command changes nothing but the records. -/
theorem raiseStatus_next {st : Status} {s t : State} (h : raiseStatus st s = .next t) :
    t = s.emit (.response (responseWord st 0)) := respond_next h

/-- Everything an accepted enqueue can do: stage the element, or push it and notify. -/
theorem enqueue_accepted {p : Peripheral} {v : Element} {s t : State} (h : enqueue p v s = .accepted t) :
    (fastPath (s.driver p) (s.ring (txOf p)) = true ∧ t = stageSlot p v s) ∨
    (fastPath (s.driver p) (s.ring (txOf p)) = false ∧ ∃ r, rbPush s.cfg.N (txOf p) v (s.ring (txOf p)) = .ok r ∧
      t = (s.setRing (txOf p) r).setDriver p { s.driver p with notify := true }) := by
  simp only [enqueue] at h
  split at h
  · exact .inl ⟨‹_›, by simpa using h.symm⟩
  · rename_i hslow
    split at h
    · exact .inr ⟨by simpa using hslow, _, ‹_›, by simpa using h.symm⟩
    · cases h
    · cases h

/-- Everything a dequeue can do. -/
theorem dequeue_next {p : Peripheral} {s t : State} (h : dequeue p s = .next t) :
    (∃ v r, rbPop s.cfg.N (rxOf p) (s.ring (rxOf p)) = .ok v r ∧
      t = (s.setRing (rxOf p) r).emit (.response (responseWord .ok v))) ∨
    ((s.ring (rxOf p)).cnt = 0 ∧ t = s.emit (.response (responseWord .bufferEmpty 0))) := by
  simp only [dequeue] at h
  split at h
  · exact .inl ⟨_, _, ‹_›, respond_next h⟩
  · exact .inr ⟨rbPop_bufferEmpty.1 ‹_›, raiseStatus_next h⟩
  · cases h

/-- Everything the harvest can do. -/
theorem harvest_ok {p : Peripheral} {keep : Bool} {rx : Element} {s t : State} (h : harvest p keep rx s = .ok t) :
    (keep = true ∧ ∃ r, rbPush s.cfg.N (rxOf p) rx (s.ring (rxOf p)) = .ok r ∧ t = s.setRing (rxOf p) r) ∨
    ((keep = false ∨ (s.ring (rxOf p)).cnt = s.cfg.N) ∧ t = s) := by
  simp only [harvest] at h
  split at h
  · split at h
    · exact .inl ⟨‹_›, _, ‹_›, by simpa using h.symm⟩
    · exact .inr ⟨.inr (rbPush_bufferFull.1 ‹_›), by simpa using h.symm⟩
    · cases h
  · rename_i hdrop
    exact .inr ⟨.inl (by simpa using hdrop), by simpa using h.symm⟩

/-- Everything the refill can do. -/
theorem refill_ok {p : Peripheral} {s t : State} (h : refill p s = .ok t) :
    (∃ v r, rbPop s.cfg.N (txOf p) (s.ring (txOf p)) = .ok v r ∧
      t = (s.setRing (txOf p) r).setDriver p { s.driver p with slot := v, loaded := true, notify := true }) ∨
    ((s.ring (txOf p)).cnt = 0 ∧ t = s.setDriver p { s.driver p with loaded := false, notify := false }) := by
  simp only [refill] at h
  split at h
  · exact .inl ⟨_, _, ‹_›, by simpa using h.symm⟩
  · exact .inr ⟨rbPop_bufferEmpty.1 ‹_›, by simpa using h.symm⟩
  · cases h

/-- The common end of both events is harvest, refill, hook. -/
theorem finishExchange_next {p : Peripheral} {keep : Bool} {rx : Element} {s t : State}
    (h : finishExchange p keep rx s = .next t) :
    ∃ a b, harvest p keep rx s = .ok a ∧ refill p a = .ok b ∧ t = fireHook p b := by
  simp only [finishExchange] at h
  split at h
  · split at h
    · exact ⟨_, _, ‹_›, ‹_›, by simpa using h.symm⟩
    · cases h
  · cases h

end Sys2Proof.Machine
end

