-- ==== Sys2Proof/Laws/PerInstr.lean ====
section
/-!
SUPPORT. The per-instruction family MatchesOpcodeRow: the word of every instruction lies in the row of the opcode map that bears its
mnemonic (30_encoding.md R80).
-/
namespace Sys2Proof.Laws

/-- The row of the opcode map that bears a mnemonic. -/
def rowNamed (m : String) : Option OpcodeRow := opcodeMap.find? (fun r => r.mnemonic == m)

/-- The word of `i` has the bits of its row (R80). -/
def MatchesOpcodeRow.Statement (i : Instr) : Prop :=
  ∃ r, rowNamed (mnemonicOf i) = some r ∧ encode i &&& r.mask = r.pattern

theorem MatchesOpcodeRow.enqU (value : Element) : MatchesOpcodeRow.Statement (.enqU value) := by
  refine ⟨⟨"ENQ.U", 0x01100000, 0xFFFF0000, true⟩, rfl, ?_⟩
  ext i hi
  simp only [encode, commandWord, channelNumber]
  interval_cases i <;> simp

theorem MatchesOpcodeRow.enqS (value : Element) (keep : Bool) : MatchesOpcodeRow.Statement (.enqS value keep) := by
  refine ⟨⟨"ENQ.S", 0x01300000, 0xFFFE0000, true⟩, rfl, ?_⟩
  ext i hi
  simp only [encode, commandWord, channelNumber]
  interval_cases i <;> simp

theorem MatchesOpcodeRow.deqU : MatchesOpcodeRow.Statement .deqU := ⟨_, rfl, by decide⟩

theorem MatchesOpcodeRow.deqS : MatchesOpcodeRow.Statement .deqS := ⟨_, rfl, by decide⟩

theorem MatchesOpcodeRow.rst (c : Channel) : MatchesOpcodeRow.Statement (.rst c) :=
  ⟨_, rfl, by cases c <;> decide⟩

theorem MatchesOpcodeRow.empty (c : Channel) : MatchesOpcodeRow.Statement (.empty c) :=
  ⟨_, rfl, by cases c <;> decide⟩

theorem MatchesOpcodeRow.full (c : Channel) : MatchesOpcodeRow.Statement (.full c) :=
  ⟨_, rfl, by cases c <;> decide⟩

theorem MatchesOpcodeRow.hookset (p : Peripheral) : MatchesOpcodeRow.Statement (.hookset p) :=
  ⟨_, rfl, by cases p <;> decide⟩

theorem MatchesOpcodeRow.hookclr (p : Peripheral) : MatchesOpcodeRow.Statement (.hookclr p) :=
  ⟨_, rfl, by cases p <;> decide⟩

theorem MatchesOpcodeRow.xchgU (rx : Element) : MatchesOpcodeRow.Statement (.xchgU rx) := by
  refine ⟨⟨"XCHG.U", 0x80000000, 0xFFFF0000, true⟩, rfl, ?_⟩
  ext i hi
  simp only [encode, eventWord, peripheralNumber]
  interval_cases i <;> simp

theorem MatchesOpcodeRow.xchgS (rx : Element) : MatchesOpcodeRow.Statement (.xchgS rx) := by
  refine ⟨⟨"XCHG.S", 0x80100000, 0xFFFF0000, true⟩, rfl, ?_⟩
  ext i hi
  simp only [encode, eventWord, peripheralNumber]
  interval_cases i <;> simp

end Sys2Proof.Laws
end

