-- ==== Sys2Proof/Laws/Step.lean ====
section
/-!
SUPPORT. What a step can do, once: the lemmas about step and fetch that proofs cite instead of unfolding them.
-/
namespace Sys2Proof.Machine

/-- A step at an admitted configuration does what was fetched. -/
theorem step_of_fetch {s : State} (h : s.cfg.WF) :
    step s = match fetch s with
      | .idle => .next s
      | .reset t => .next (powerOnReset t)
      | .run i t => exec i t
      | .illegal t => execIllegal t
      | .malformed x => .refused (.malformedEvent x) := if_pos h

/-- Everything a step can do. -/
theorem step_next {s t : State} (h : step s = .next t) :
    s.cfg.WF ∧
    ((fetch s = .idle ∧ t = s) ∨
     (∃ u, fetch s = .reset u ∧ t = powerOnReset u) ∨
     (∃ i u, fetch s = .run i u ∧ exec i u = .next t) ∨
     (∃ u, fetch s = .illegal u ∧ t = u.emit (.response (responseWord .illegal 0)))) := by
  by_cases hc : s.cfg.WF
  · refine ⟨hc, ?_⟩
    rw [step_of_fetch hc] at h
    cases hf : fetch s with
    | idle => simp_all
    | reset u => simp_all
    | run i u => simp_all
    | illegal u =>
      rw [hf] at h
      exact .inr (.inr (.inr ⟨u, rfl, raiseStatus_next h⟩))
    | malformed x => simp [hf] at h
  · simp only [step, if_neg hc] at h
    cases h

/-- A fetched instruction runs in the same state but for the schedule. -/
theorem fetch_run {s u : State} {i : Instr} (h : fetch s = .run i u) :
    u = s.setSchedule (takeNext s.schedule).2 ∧
    ((∃ p x, (takeNext s.schedule).1 = .event p x ∧ decodeStrobe s.cfg.W p x = some i) ∨
     (∃ x, (takeNext s.schedule).1 = .command x ∧ decodeCommand s.cfg.W x = some i)) := by
  simp only [fetch] at h
  split at h
  · cases h
  · cases h
  · rename_i p x hp
    split at h
    · rename_i j hj
      simp only [Fetched.run.injEq] at h
      exact ⟨h.2.symm, .inl ⟨p, x, hp, h.1 ▸ hj⟩⟩
    · cases h
  · rename_i x hx
    split at h
    · rename_i j hj
      simp only [Fetched.run.injEq] at h
      exact ⟨h.2.symm, .inr ⟨x, hx, h.1 ▸ hj⟩⟩
    · cases h

/-- A strobe delivers an event of its peripheral. -/
theorem decodeStrobe_some {w : Width} {p : Peripheral} {x : Word32} {i : Instr} (h : decodeStrobe w p x = some i) :
    decodeEvent w x = some i ∧ eventOf i = some p := by
  simp only [decodeStrobe] at h
  split at h
  · rename_i j hj
    split at h
    · simp only [Option.some.injEq] at h
      subst h
      exact ⟨hj, ‹_›⟩
    · cases h
  · cases h

end Sys2Proof.Machine
end

