-- ==== Sys2Proof/Tests/Slice0.lean ====
section
/-!
SUPPORT. The model's own tests, each on one step of a small state, with results taken from spec/95_test_vectors.md (the V and P numbers)
or read off the rule named; and a witness for the hypotheses of every statement.
-/
namespace Sys2Proof.Tests
open Sys2Proof Sys2Proof.Machine

/-! ### Helpers -/

/-- `N = 2`, `W = 8`, `V = 3`, `IDLE_KEEP = 0`: the configuration of the spec's port vectors. -/
def cfg2 : Config := { N := 2, W := .w8, V := 3, idleKeep := false }

/-- The reset state at `cfg2`. -/
def start : State := State.resetWith cfg2

/-- A ring buffer of capacity 2 that holds the given elements. -/
def ringOf (vs : List Element) : Ring :=
  { buf := vs.zipIdx.map (fun x => (x.2, x.1)), rd := 0, wr := vs.length % 2, cnt := vs.length }

/-- The UART side: `slot` staged, `tx` and `rx` queued. -/
def uartWith (slot : Element) (tx rx : List Element) : State :=
  { start with
    uart := { slot := slot, loaded := true, notify := !tx.isEmpty, hook := false }
    uartTx := ringOf tx
    uartRx := ringOf rx }

/-- The SPI side: `slot` staged, `tx` and `rx` queued, the decisions in `vec`. -/
def spiWith (slot : Element) (tx rx : List Element) (vec : Nat) : State :=
  { start with
    spi := { slot := slot, loaded := true, notify := !tx.isEmpty, hook := false }
    spiTx := ringOf tx
    spiRx := ringOf rx
    skip := { vec := vec, pos := tx.length + 1 } }

/-- `o` is a next state with property `p`. -/
def after (o : Host.Outcome State Fault Refusal) (p : State → Bool) : Bool :=
  match o with
  | .next t => p t
  | .fault _ => false
  | .refused _ => false

/-! ### Well-formedness refuses an operand that is too wide (R68 (f), R72) -/

theorem test_wellFormed_enqU : (Instr.enqU 0x100).wellFormed .w8 = false ∧ (Instr.enqU 0x100).wellFormed .w16 = true := by decide
theorem test_wellFormed_enqS : (Instr.enqS 0x100 true).wellFormed .w8 = false ∧ (Instr.enqS 0xFF true).wellFormed .w8 = true := by decide
theorem test_wellFormed_xchgU : (Instr.xchgU 0x100).wellFormed .w8 = false ∧ (Instr.xchgU 0xFF).wellFormed .w8 = true := by decide
theorem test_wellFormed_xchgS : (Instr.xchgS 0xFFFF).wellFormed .w8 = false ∧ (Instr.xchgS 0xFFFF).wellFormed .w16 = true := by decide
theorem test_config_refused : ¬ Config.WF { N := 0, W := .w8, V := 3, idleKeep := false } ∧
    ¬ Config.WF { N := 2, W := .w8, V := 2, idleKeep := false } := by decide

/-! ### Decoding: every constructor, its word written out from R64, R65, R66, R72 -/

-- op 00000001, sel 0001, z 000, k 0, data 0000000000010000
theorem test_decode_enqU : decodeWord .w8 0b00000001000100000000000000010000 = some (.enqU 0x10) := by decide
-- op 00000001, sel 0011, z 000, k 1, data 0000000010101010
theorem test_decode_enqS : decodeWord .w8 0b00000001001100010000000010101010 = some (.enqS 0xAA true) := by decide
-- op 00000010, sel 0000
theorem test_decode_deqU : decodeWord .w8 0b00000010000000000000000000000000 = some .deqU := by decide
-- op 00000010, sel 0010
theorem test_decode_deqS : decodeWord .w8 0b00000010001000000000000000000000 = some .deqS := by decide
-- op 00000011, sel 0011
theorem test_decode_rst : decodeWord .w8 0b00000011001100000000000000000000 = some (.rst .spiTx) := by decide
-- op 00000100, sel 0000
theorem test_decode_empty : decodeWord .w8 0b00000100000000000000000000000000 = some (.empty .uartRx) := by decide
-- op 00000101, sel 0001
theorem test_decode_full : decodeWord .w8 0b00000101000100000000000000000000 = some (.full .uartTx) := by decide
-- op 00000110, sel 0001
theorem test_decode_hookset : decodeWord .w8 0b00000110000100000000000000000000 = some (.hookset .spi) := by decide
-- op 00000111, sel 0000
theorem test_decode_hookclr : decodeWord .w8 0b00000111000000000000000000000000 = some (.hookclr .uart) := by decide
-- op 10000000, sel 0000, z 0000, rx 0000000001011010
theorem test_decode_xchgU : decodeWord .w8 0b10000000000000000000000001011010 = some (.xchgU 0x5A) := by decide
-- op 10000000, sel 0001, z 0000, rx 0000000000000001
theorem test_decode_xchgS : decodeWord .w8 0b10000000000100000000000000000001 = some (.xchgS 0x01) := by decide

/-- V54 to V59e: the illegal command words. -/
theorem test_decode_illegal :
    [0x00000000, 0x08000000, 0x01000010, 0x02100000, 0x02300000, 0x01110010, 0x01100100, 0x03400000, 0x06200000, 0x02000001,
      0x01120010, 0x80100001].all (fun x => (decodeCommand .w8 x).isNone) = true := by decide

/-- V59: the same word is legal with `W = 16`. -/
theorem test_decode_wide : decodeCommand .w16 0x01100100 = some (.enqU 0x0100) := by decide

/-- 2.4: the refused event words. -/
theorem test_decode_refused_events :
    [0x80200000, 0x80110000, 0x80100100, 0x81100000].all (fun x => (decodeEvent .w8 x).isNone) = true := by decide

/-- The host's two readings of a table word. -/
theorem test_table_word : decodeTableWord 32 0x0110BEEF = some (.enqU 0xBEEF) ∧
    after (step (State.reset.withFetchWord 32 0x0110BEEF)) (fun t => t.uart.slot == 0xBEEF && t.uart.loaded) = true := by decide

theorem test_table_event :
    after (step (State.reset.withFetchWord 32 0x8000CAFE)) (fun t => t.queue .uartRx == [0xCAFE]) = true := by decide

/-! ### Micro-operations -/

/-- S5, step 8: the write index behind the read index. -/
theorem test_push_wraps : rbPush 4 .uartTx 0x50 { buf := [(2, 0x30)], rd := 2, wr := 3, cnt := 1 } =
    .ok { buf := [(2, 0x30), (3, 0x50)], rd := 2, wr := 0, cnt := 2 } := by decide

/-- V2. -/
theorem test_push_full : rbPush 1 .uartTx 0x01 { buf := [(0, 0x7E)], rd := 0, wr := 0, cnt := 1 } = .bufferFull := by decide

/-- R82, example. -/
theorem test_pop_wraps : rbPop 4 .uartRx { buf := [(0, 0x50), (3, 0x40)], rd := 3, wr := 1, cnt := 2 } =
    .ok 0x40 { buf := [(0, 0x50), (3, 0x40)], rd := 0, wr := 1, cnt := 1 } := by decide

/-- V7, V8: full and empty with `rd = wr`. -/
theorem test_full_empty : rbFull 3 { buf := [], rd := 2, wr := 2, cnt := 3 } = true ∧
    rbEmpty { buf := [], rd := 2, wr := 2, cnt := 3 } = false ∧ rbEmpty { buf := [], rd := 2, wr := 2, cnt := 0 } = true := by decide

/-- V22, V23, V29, and R92 at the end of the register. -/
theorem test_record : sfRecord 8 false { vec := 1, pos := 1 } = .ok { vec := 1, pos := 2 } ∧
    sfRecord 8 true { vec := 1, pos := 2 } = .ok { vec := 5, pos := 3 } ∧
    sfRecord 8 true { vec := 15, pos := 4 } = .ok { vec := 31, pos := 5 } ∧
    sfRecord 3 true { vec := 5, pos := 3 } = .error .recordOverflow := by decide

/-- V24, V25, V27, V28. -/
theorem test_consume : sfConsume false { vec := 5, pos := 3 } = (true, { vec := 2, pos := 2 }) ∧
    sfConsume false { vec := 2, pos := 2 } = (false, { vec := 1, pos := 1 }) ∧
    sfConsume false { vec := 0, pos := 0 } = (false, { vec := 0, pos := 0 }) ∧
    sfConsume true { vec := 0, pos := 0 } = (true, { vec := 0, pos := 0 }) := by decide

/-! ### Commands -/

/-- V40, V45: the fast path; the ring buffer stays empty and `notify` 0. -/
theorem test_enqU_fast : after (exec (.enqU 0x10) start)
    (fun t => t.uart == { slot := 0x10, loaded := true, notify := false, hook := false } && t.uartTx.cnt == 0) = true := by decide

/-- V42, V43: the last location, then `BufferFull`. -/
theorem test_enqU_full : after (exec (.enqU 0x30) (uartWith 0x10 [0x20] []))
      (fun t => t.uartTx == { buf := [(0, 0x20), (1, 0x30)], rd := 0, wr := 0, cnt := 2 } && t.uart.notify) = true ∧
    after (exec (.enqU 0x40) (uartWith 0x10 [0x20, 0x30] []))
      (fun t => t.queue .uartTx == [0x20, 0x30] && t.out == [.response 0x00010000]) = true := by decide

/-- V48. -/
theorem test_enqS_fast : after (exec (.enqS 0xAA true) start)
    (fun t => t.spi.slot == 0xAA && t.spi.loaded && t.skip == { vec := 1, pos := 1 }) = true := by decide

/-- P3, steps 4 and 5: `pos` reaches `N + 1`; then nothing is recorded. -/
theorem test_enqS_full : after (exec (.enqS 0x33 true) (spiWith 0x11 [0x22] [] 1))
      (fun t => t.skip == { vec := 5, pos := 3 } && t.spiTx.cnt == 2) = true ∧
    after (exec (.enqS 0x44 true) (spiWith 0x11 [0x22, 0x33] [] 5))
      (fun t => t.skip == { vec := 5, pos := 3 } && t.out == [.response 0x00010000]) = true := by decide

/-- R102, example; V46. -/
theorem test_deqU : after (exec .deqU (uartWith 0x10 [] [0xA1, 0xA2]))
      (fun t => t.out == [.response 0x000000A1] && t.queue .uartRx == [0xA2]) = true ∧
    after (exec .deqU start) (fun t => t.out == [.response 0x00020000]) = true := by decide

/-- R103, example. -/
theorem test_deqS : after (exec .deqS (spiWith 0x11 [] [0x01] 1))
    (fun t => t.out == [.response 0x00000001] && t.queue .spiRx == [] && t.skip.pos == 1) = true := by decide

/-- V81. -/
theorem test_rst_spiTx : after (exec (.rst .spiTx) (spiWith 0x11 [0x22, 0x33] [0xC1] 5))
    (fun t => t.skip == { vec := 0, pos := 0 } && t.fsm .spi == .idle && t.spi.slot == 0x11 && t.queue .spiRx == [0xC1]) = true := by
  decide

/-- V53. -/
theorem test_rst_spiRx : after (exec (.rst .spiRx) (spiWith 0x11 [0x22] [0x01, 0x02] 1))
    (fun t => t.queue .spiRx == [] && t.spi.loaded && t.skip.pos == 2) = true := by decide

/-- V44, V45. -/
theorem test_full_command : after (exec (.full .uartTx) (uartWith 0x10 [0x20, 0x30] [])) (fun t => t.out == [.response 1]) = true := by
  decide
theorem test_empty_command : after (exec (.empty .uartTx) (uartWith 0x10 [] [])) (fun t => t.out == [.response 1]) = true := by decide

/-- V50, V51. -/
theorem test_hookset : after (exec (.hookset .uart) start) (fun t => t.uart.hook && !t.spi.hook) = true := by decide
theorem test_hookclr : after (exec (.hookclr .uart) { start with uart := { start.uart with hook := true } })
    (fun t => !t.uart.hook) = true := by decide

/-! ### Events -/

/-- V61. -/
theorem test_xchgU_refill : after (exec (.xchgU 0xA1) (uartWith 0x10 [0x20] []))
    (fun t => t.out == [.txOut .uart 0x10] && t.queue .uartRx == [0xA1] &&
      t.uart == { slot := 0x20, loaded := true, notify := true, hook := false } && t.uartTx.cnt == 0) = true := by decide

/-- V63: the silent drop; V62: the idle event. -/
theorem test_xchgU_drop_and_idle : after (exec (.xchgU 0x03) (uartWith 0x10 [] [1, 2]))
      (fun t => t.queue .uartRx == [1, 2] && t.fsm .uart == .idle) = true ∧
    after (exec (.xchgU 0x5A) start) (fun t => t.queue .uartRx == [0x5A] && t.out == []) = true := by decide

/-- P2, step 3: the companion of `0xAA` is kept, the decision of `0xBB` stays. -/
theorem test_xchgS_keep : after (exec (.xchgS 0x01) (spiWith 0xAA [0xBB] [] 1))
    (fun t => t.out == [.txOut .spi 0xAA] && t.queue .spiRx == [0x01] && t.skip == { vec := 0, pos := 1 } &&
      t.spi.slot == 0xBB && t.spiTx.cnt == 0) = true := by decide

/-- V67, V69: an idle exchange with `IDLE_KEEP = 1`, and the hook on an idle exchange. -/
theorem test_xchgS_idle :
    after (exec (.xchgS 0x77) (State.resetWith { cfg2 with idleKeep := true })) (fun t => t.queue .spiRx == [0x77]) = true ∧
    after (exec (.xchgS 0x00) { start with spi := { start.spi with hook := true } })
      (fun t => t.out.length == 2 && t.out.getLast? == some (.hook .spi)) = true := by decide

/-! ### Steps -/

/-- V70: in one period the event frees a location before the command is performed. -/
theorem test_period_event_first :
    after (step { uartWith 0x10 [0x20, 0x30] [] with schedule := [{ uart := some 0x800000A1, command := some 0x01100040 }] })
      (fun t => t.queue .uartTx == [0x30] && t.schedule == [{ command := some 0x01100040 }]) = true := by decide

/-- V54; V59e: an event word on the command port. -/
theorem test_illegal_step :
    after (step { start with schedule := [{ command := some 0x80100001 }] }) (fun t => t.out == [.response 0x00030000]) = true := by
  decide

/-- V80. -/
theorem test_power_on_reset :
    after (step { spiWith 0x11 [0x22, 0x33] [0xC1] 5 with schedule := [{ reset := true, command := some 0x06000000 }] })
      (fun t => t.fsm .spi == .idle && t.skip.pos == 0 && t.queue .spiRx == [] && !t.uart.hook && t.out == []) = true := by decide

/-- R78: WAITDEQ polls EMPTY, then DEQ, then is over. -/
theorem test_waitDeq : pseudoNext (.waitDeq .spi) [1, 1] = some (.empty .spiRx) ∧
    pseudoNext (.waitDeq .spi) [1, 0] = some .deqS ∧ pseudoNext (.waitDeq .spi) [0, 0x42] = none := by decide

/-- R78: STOP is RST of the RX channel, then of the TX channel. -/
theorem test_stop : pseudoNext (.stop .uart) [] = some (.rst .uartRx) ∧ pseudoNext (.stop .uart) [0] = some (.rst .uartTx) ∧
    pseudoNext (.stop .uart) [0, 0] = none := by decide

/-! ### Witnesses: for every statement with hypotheses, a state and operands that meet them all -/

theorem witness_DecodeInvertsEncode : (Instr.enqS 0xFF true).wellFormed .w8 = true ∧ (Instr.xchgU 0xFFFF).wellFormed .w16 = true := by
  decide

theorem witness_DecodedWordsReencode : decodeWord .w8 0x013100FF = some (.enqS 0xFF true) ∧
    decodeWord .w16 0x8010FFFF = some (.xchgS 0xFFFF) := by decide

theorem witness_OpcodeMapDecidesTheOperation :
    ∃ r ∈ opcodeMap, r.mnemonic = "RST" ∧ (0x03300000 : Word32) &&& r.mask = r.pattern :=
  ⟨⟨"RST", 0x03000000, 0xFFCFFFFF, false⟩, by decide⟩

/-- Both clauses: a command, and an event with a command left in the same period. -/
theorem witness_StepRunsTheDecodedWord : cfg2.WF ∧
    takeNext [{ command := some 0x02200000 }] = (.command 0x02200000, []) ∧ decodeCommand cfg2.W 0x02200000 = some .deqS ∧
    takeNext [{ uart := some 0x800000FF, command := some 0 }] = (.event .uart 0x800000FF, [{ command := some 0 }]) ∧
    decodeEvent cfg2.W 0x800000FF = some (.xchgU 0xFF) ∧ eventOf (.xchgU 0xFF) = some .uart := by decide

theorem witness_PresentedWordIsTheNextStep : start.cfg.WF ∧ (Instr.xchgS 0xFF).wellFormed start.cfg.W = true ∧
    (Instr.rst .spiTx).wellFormed start.cfg.W = true := by decide

theorem witness_IllegalWordIsAnsweredAndChangesNothing : cfg2.WF ∧
    takeNext [{ command := some 0x01100100 }] = (.command 0x01100100, []) ∧ decodeCommand cfg2.W 0x01100100 = none := by decide

/-- The three clauses: a word too wide for the build, a configuration one bit short, an empty schedule. -/
theorem witness_RefusedStimulusRefusedConfigurationAndStalledClock : cfg2.WF ∧
    takeNext [{ spi := some 0x80100100 }] = (.event .spi 0x80100100, []) ∧ decodeEvent cfg2.W 0x80100100 = none ∧
    ¬ Config.WF { N := 2, W := .w8, V := 2, idleKeep := false } ∧ start.schedule = [] := by decide

theorem witness_SamePeriodOrder : cfg2.WF ∧ (Instr.xchgS 0xFF).wellFormed cfg2.W = true ∧ (Instr.xchgU 0).wellFormed cfg2.W = true ∧
    (Instr.enqU 0x40).wellFormed cfg2.W = true ∧ eventOf (.enqU 0x40) = none := by decide

/-- A well-formed state in which both peripherals are Draining and both RX rings full. -/
def busy : State :=
  { spiWith 0x11 [0x22, 0x33] [0xC1, 0xC2] 5 with
    uart := { slot := 0x10, loaded := true, notify := true, hook := true }
    uartTx := ringOf [0x20, 0x30]
    uartRx := ringOf [0xA1, 0xA2] }

theorem busy_wf : busy.WF := by decide

theorem start_wf : start.WF := by decide

/-- The orphan state (R35): its rings are well-formed, the state is not. -/
def orphan : State := { start with uartTx := ringOf [0x20], spiTx := ringOf [0x22] }

theorem witness_EventsOfTheTwoPeripheralsCommute : busy.RingsWF ∧ orphan.RingsWF ∧ ¬ orphan.WF :=
  ⟨busy_wf.2.1, by decide, by decide⟩

theorem witness_PowerOnResetFromAnyState :
    busy.cfg.WF ∧ ({ reset := true, command := some 0x02000000 } : Period).reset = true := by decide

/-- Both clauses of each, at `cnt = 0`, `cnt = N - 1` and `cnt = N`, with wrapped indices. -/
theorem witness_PushStoresAtTheWriteIndex : RingWF cfg2 (ringOf []) ∧ RingWF cfg2 (ringOf [1, 2]) ∧
    RingWF cfg2 { buf := [(1, 7)], rd := 1, wr := 0, cnt := 1 } := ⟨by decide, by decide, by decide⟩

theorem witness_PopReadsAtTheReadIndex : RingWF cfg2 (ringOf []) ∧ RingWF cfg2 (ringOf [1, 2]) ∧ (ringOf [1, 2]).cnt ≠ 0 :=
  ⟨by decide, by decide, by decide⟩

theorem witness_RingOperationsActOnTheQueue : RingWF cfg2 { buf := [(1, 7)], rd := 1, wr := 0, cnt := 1 } ∧ cfg2.W.fits 0xFF = true ∧
    rbPush 2 .uartTx 0xFF { buf := [(1, 7)], rd := 1, wr := 0, cnt := 1 } =
      .ok { buf := [(0, 0xFF), (1, 7)], rd := 1, wr := 1, cnt := 2 } ∧
    rbPop 2 .uartTx { buf := [(1, 7)], rd := 1, wr := 0, cnt := 1 } =
      .ok 7 { buf := [(1, 7)], rd := 0, wr := 0, cnt := 0 } := ⟨by decide, by decide, by decide, by decide⟩

theorem witness_RingCapacityLaw : RingWF cfg2 { buf := [(0, 9)], rd := 1, wr := 1, cnt := 0 } ∧
    [(0x01 : Element), 0xFF].length = cfg2.N ∧ (∀ x ∈ [(0x01 : Element), 0xFF], cfg2.W.fits x = true) := by
  refine ⟨by decide, by decide, ?_⟩
  simp only [List.forall_mem_cons, List.not_mem_nil, false_implies, implies_true, and_true]
  decide

theorem witness_RingFifoLaw : RingWF cfg2 (ringOf []) ∧
    (∀ v, RingCall.push v ∈ [RingCall.push 0xFF, .pop, .pop] → cfg2.W.fits v = true) := by
  refine ⟨by decide, ?_⟩
  intro v h
  simp at h
  subst h
  decide

theorem witness_ResetThenEmpty : 1 ≤ cfg2.N := by decide

/-- The four clauses, at `pos = V - 1`, `pos = V`, `pos = 0` and `pos = 1`. -/
theorem witness_RecordAndConsumeBits : (SkipFlags.mk 3 2).pos < cfg2.V ∧ (SkipFlags.mk 7 3).pos = cfg2.V ∧
    (SkipFlags.mk 0 0).pos = 0 ∧ (SkipFlags.mk 1 1).pos ≠ 0 := by decide

theorem witness_VectorOperationsActOnTheDecisions : sfRecord 3 true { vec := 2, pos := 2 } = .ok { vec := 6, pos := 3 } ∧
    (SkipFlags.mk 2 2).pos ≠ 0 := by decide

/-- The first clause, and the second on a sequence with more decisions than the vector has bits. -/
theorem witness_SkipFlagAlignmentLaw :
    (SkipFlags.mk 1 1).pos + [SkipCall.record true, .consume, .record false].countP (fun k => k != .consume) ≤ 3 ∧
    runSkip 2 false [.record true, .consume, .record false, .consume, .record true, .consume] { vec := 0, pos := 0 } =
      .ok { recorded := [true, false, true], consumed := [true, false, true], final := { vec := 0, pos := 0 } } :=
  ⟨by decide, rfl⟩

/-- The three endings: fast path, `BufferFull`, slow path with one location free. -/
theorem witness_EnqUStagesQueuesOrReportsFull : start.uartTx.wr < start.cfg.N ∧ busy.uartTx.wr < busy.cfg.N ∧
    busy.uartTx.cnt = busy.cfg.N ∧ (uartWith 0x10 [0x20] []).uartTx.wr < 2 := by decide

/-- The three endings; the slow path at `pos = N`, the last bit but one of the vector. -/
theorem witness_EnqSStagesQueuesOrReportsFull : start.spiTx.wr < start.cfg.N ∧ start.skip.pos < start.cfg.V ∧
    (spiWith 0x11 [0x22] [] 1).spiTx.wr < 2 ∧ (spiWith 0x11 [0x22] [] 1).skip.pos < 3 ∧
    ({ busy with cfg := { cfg2 with V := 4 } }).skip.pos < 4 ∧ busy.spiTx.wr < 2 := by decide

/-- Each of the two commands, with an element and without one. -/
theorem witness_DequeueAnswersTheOldestElement :
    busy.uartRx.rd < busy.cfg.N ∧ busy.uartRx.buf.read busy.uartRx.rd = some 0xA1 ∧
    busy.spiRx.rd < busy.cfg.N ∧ busy.spiRx.buf.read busy.spiRx.rd = some 0xC1 ∧ start.uartRx.cnt = 0 ∧ start.spiRx.cnt = 0 := by
  decide

/-- A rejected command of the opcode map and an illegal word. -/
theorem witness_RejectedCommandChangesNothing : (∃ t, eventOf (.enqU 1) = none ∧ exec (.enqU 1) busy = .next t) ∧
    (∃ t, execIllegal start = .next t) ∧ responseStatus 0x00010000 ≠ 0 :=
  ⟨⟨_, rfl, rfl⟩, ⟨_, rfl⟩, by decide⟩

/-- A list of elements for the UART clause and one of elements with decisions for the SPI clause. -/
theorem witness_PortAcceptsCapacityPlusOne : start.WF ∧ start.fsm .uart = .idle ∧ start.fsm .spi = .idle ∧
    [(1 : Element), 2, 3, 0xFF].length = start.cfg.N + 2 ∧ (∀ v ∈ [(1 : Element), 2, 3, 0xFF], start.cfg.W.fits v = true) ∧
    [((1 : Element), true), (2, false), (3, true), (0xFF, false)].length = start.cfg.N + 2 ∧
    (∀ v ∈ [((1 : Element), true), (2, false), (3, true), (0xFF, false)], start.cfg.W.fits v.1 = true) := by
  refine ⟨start_wf, by decide, by decide, by decide, ?_, by decide, ?_⟩ <;>
  · simp only [List.forall_mem_cons, List.not_mem_nil, false_implies, implies_true, and_true]
    decide

/-- For each peripheral, its ENQ commands with events of the other before, between and after them. -/
theorem witness_PortCapacityAmongEventsOfTheOtherPeripheral : start.WF ∧ start.fsm .uart = .idle ∧ start.fsm .spi = .idle ∧
    (∀ i ∈ [Instr.xchgS 9, .enqU 1, .enqU 2, .xchgS 0xFF, .enqU 3, .enqU 0xFF, .xchgS 7], i.wellFormed start.cfg.W = true ∧
      (offeredBy .uart i ≠ none ∨ (eventOf i ≠ none ∧ eventOf i ≠ some .uart))) ∧
    [Instr.xchgS 9, .enqU 1, .enqU 2, .xchgS 0xFF, .enqU 3, .enqU 0xFF, .xchgS 7].countP (fun i => (offeredBy .uart i).isSome) =
      start.cfg.N + 2 ∧
    (∀ i ∈ [Instr.enqS 1 true, .xchgU 9, .enqS 2 false, .enqS 3 true, .xchgU 0xFF, .enqS 0xFF true],
      i.wellFormed start.cfg.W = true ∧ (offeredBy .spi i ≠ none ∨ (eventOf i ≠ none ∧ eventOf i ≠ some .spi))) ∧
    [Instr.enqS 1 true, .xchgU 9, .enqS 2 false, .enqS 3 true, .xchgU 0xFF, .enqS 0xFF true].countP
      (fun i => (offeredBy .spi i).isSome) = start.cfg.N + 2 :=
  ⟨start_wf, by decide, by decide, by decide, by decide, by decide, by decide⟩

theorem witness_NotFullGuaranteesTheNextEnqueue : (uartWith 0x10 [0x20] []).WF ∧
    (∃ a t, exec (.full .uartTx) (uartWith 0x10 [0x20] []) = .next a ∧
      newOutputs (uartWith 0x10 [0x20] []) a = [.response 0] ∧ runInstrs [.xchgU 0xA1, .xchgU 0xA2] a = some t) ∧
    offeredBy .uart (.enqU 3) ≠ none :=
  ⟨by decide, ⟨_, _, rfl, by decide, rfl⟩, by decide⟩

theorem witness_NotEmptyGuaranteesTheNextDequeue : busy.WF ∧
    (∃ a t, exec (.empty .spiRx) busy = .next a ∧ newOutputs busy a = [.response 0] ∧ runInstrs [.xchgS 0xA1] a = some t) :=
  ⟨busy_wf, ⟨_, _, rfl, by decide, rfl⟩⟩

/-- An empty RX ring, a full one, an empty TX ring and one with an element. -/
theorem witness_XchgUHarvestsAndRefills : start.uartRx.wr < start.cfg.N ∧ start.uartTx.cnt = 0 ∧
    busy.uartRx.wr < busy.cfg.N ∧ busy.uartTx.rd < busy.cfg.N ∧ busy.uartTx.buf.read busy.uartTx.rd = some 0x20 := by decide

theorem witness_XchgSConsumesHarvestsAndRefills : start.spiRx.wr < start.cfg.N ∧ start.spiTx.cnt = 0 ∧
    busy.spiRx.wr < busy.cfg.N ∧ busy.spiTx.rd < busy.cfg.N ∧ busy.spiTx.buf.read busy.spiTx.rd = some 0x22 := by decide

/-- An accepted and a refused ENQ, an event, an RST and another step, from Idle and from Draining. -/
theorem witness_DriverTransitionTable : busy.WF ∧ start.WF ∧ offeredBy .spi (.enqS 1 true) ≠ none ∧
    (∃ t, exec (.enqS 1 true) busy = .next t) ∧ (∃ t, exec (.enqS 1 true) start = .next t) ∧
    (∃ t, exec (.xchgS 1) busy = .next t) ∧ (∃ t, exec (.rst .spiTx) busy = .next t) ∧ (∃ t, exec .deqU busy = .next t) ∧
    (∃ t, execIllegal busy = .next t) :=
  ⟨busy_wf, start_wf, by decide, ⟨_, rfl⟩, ⟨_, rfl⟩, ⟨_, rfl⟩, ⟨_, rfl⟩, ⟨_, rfl⟩, ⟨_, rfl⟩⟩

theorem witness_WireOrderLaw : busy.WF ∧
    (∀ i ∈ [Instr.xchgU 1, .enqU 0xFF, .xchgS 3, .rst .uartRx], i.wellFormed busy.cfg.W = true) ∧
    Instr.rst (txOf .uart) ∉ [Instr.xchgU 1, .enqU 0xFF, .xchgS 3, .rst .uartRx] ∧ start.WF ∧ start.inflight .uart = [] :=
  ⟨busy_wf, by decide, by decide, start_wf, by decide⟩

theorem witness_DecisionTravelsWithItsElement : busy.WF ∧
    (∀ i ∈ [Instr.xchgS 1, .enqS 0xFF true, .rst .spiRx], i.wellFormed busy.cfg.W = true) ∧
    Instr.rst .spiTx ∉ [Instr.xchgS 1, .enqS 0xFF true, .rst .spiRx] :=
  ⟨busy_wf, by decide, by decide⟩

theorem witness_ReceivedElementsAreDeliveredInOrder : busy.WF ∧
    (∀ i ∈ [Instr.deqS, .xchgS 0xFF, .deqS, .rst .spiTx], i.wellFormed busy.cfg.W = true) ∧
    Instr.rst (rxOf .spi) ∉ [Instr.deqS, .xchgS 0xFF, .deqS, .rst .spiTx] :=
  ⟨busy_wf, by decide, by decide⟩

theorem witness_SpiRefinesTheListReference : busy.WF ∧ (Instr.xchgS 0xFF).wellFormed busy.cfg.W = true ∧
    start.WF ∧ Instr.deqU.wellFormed start.cfg.W = true := ⟨busy_wf, by decide, start_wf, by decide⟩

theorem witness_UartRefinesTheListReference : busy.WF ∧ (Instr.xchgU 0xFF).wellFormed busy.cfg.W = true ∧
    start.WF ∧ Instr.deqS.wellFormed start.cfg.W = true := ⟨busy_wf, by decide, start_wf, by decide⟩

theorem witness_OnlyTheWriteIndexIsStored : (∃ t, exec (.enqU 5) (uartWith 0x10 [0x20] []) = .next t) ∧
    (uartWith 0x10 [0x20] []).storeAddressOf (.enqU 5) = some (.uartTx, 1) ∧
    (uartWith 0x10 [0x20] []).storeAddressOf (.enqU 5) ≠ some (.uartTx, 0) ∧
    busy.storeAddressOf (.enqU 5) = none :=
  ⟨⟨_, rfl⟩, by decide⟩

theorem witness_OwnershipOfWrites : (∃ t, exec (.xchgU 5) busy = .next t) ∧ eventOf (.xchgU 5) ≠ none ∧
    (∃ t, exec .deqU busy = .next t) ∧ eventOf .deqU = none ∧ (∃ t, exec (.rst .uartRx) busy = .next t) :=
  ⟨⟨_, rfl⟩, by decide, ⟨_, rfl⟩, rfl, ⟨_, rfl⟩⟩

theorem witness_PeripheralsDoNotInterfere : (∃ t, exec (.xchgU 5) busy = .next t) ∧ ownerOf (.xchgU 5) = .uart ∧
    Peripheral.spi ≠ ownerOf (.xchgU 5) ∧ periph .spiTx ≠ ownerOf (.xchgU 5) :=
  ⟨⟨_, rfl⟩, by decide⟩

theorem witness_NotifyIsOnlyAnOutput : ∃ t, exec (.xchgS 5) busy = .next t := ⟨_, rfl⟩

theorem witness_VectorWidthIsUnobservable : busy.WF ∧ busy.cfg.N + 1 ≤ 64 ∧ (∃ t, exec (.enqS 5 true) busy = .next t) :=
  ⟨busy_wf, by decide, ⟨_, rfl⟩⟩

theorem witness_ResetStateIsWellFormed : cfg2.WF ∧ Config.reference.WF ∧
    Config.WF { N := 1, W := .w16, V := 2, idleKeep := true } := by decide

theorem witness_StepKeepsWellFormed : ({ busy with schedule := [{ spi := some 0x80100001 }] } : State).WF ∧
    ∃ t, step { busy with schedule := [{ spi := some 0x80100001 }] } = .next t := ⟨busy_wf, ⟨_, rfl⟩⟩

/-- A reachable state that a command and an event have changed. -/
theorem witness_ReachableStateInvariants : cfg2.WF ∧ ∃ s, Reachable cfg2 s ∧ s.skip.pos = 0 ∧ s.spi.loaded = false ∧
    s.out.length = 2 := by
  refine ⟨by decide, _, .step (.step (.reset [{ command := some 0x013100AA }, { spi := some 0x80100001 }]) rfl) rfl, ?_⟩
  decide

theorem witness_NothingIsFatal :
    State.Safe { busy with schedule := [{ spi := some 0x80100001, uart := some 0x80000002, command := some 0x08000000 }] } := by
  refine ⟨busy_wf, ?_⟩
  intro p h
  have hp : p = { spi := some 0x80100001, uart := some 0x80000002, command := some 0x08000000 } := by simpa using h
  subst hp
  simp only [Period.legal, Option.mem_def, Option.some.injEq, forall_eq']
  decide

/-- Two states with different indices, dead data and stale slots, and the same views. -/
theorem witness_EqualViewsAreIndistinguishable :
    ∃ s s' : State, s ≠ s' ∧ s.WF ∧ s'.WF ∧ s.Indistinguishable s' ∧ ∃ t, Host.Core.run Sys2Proof.core 1 s = .next t :=
  ⟨{ start with uartRx := ringOf [7], schedule := [{ command := some 0x02000000 }] },
    { start with
      uartRx := { buf := [(0, 3), (1, 7)], rd := 1, wr := 0, cnt := 1 }
      spi := { start.spi with slot := 0x55 }
      schedule := [{ command := some 0x02000000 }] },
    by decide, by decide, by decide, by decide, ⟨_, rfl⟩⟩

end Sys2Proof.Tests
end

section
/-!
PROOFS. The width `V` of the Skip-Flag Vector register is unobservable (00_scope.md R8). SF.RECORD is the only operation that reads `V`,
and in a well-formed state an accepted ENQ.S leaves it room at every admissible `V` (R31); everything else commutes with a change of `V`
on every state.
-/
namespace Sys2Proof.Machine

/-- `s` built with another width of the vector register (R8). -/
def State.setV (s : State) (V : Nat) : State := { s with cfg := { s.cfg with V := V } }

/-- The same outcome, its next state built with another width of the vector register. -/
def outcomeSetV (V : Nat) : Host.Outcome State Fault Refusal → Host.Outcome State Fault Refusal
  | .next s => .next (s.setV V)
  | .fault f => .fault f
  | .refused r => .refused r

/-- The same enqueue result, its state built with another width of the vector register. -/
def EnqueueResult.setV (V : Nat) : EnqueueResult → EnqueueResult
  | .accepted s => .accepted (s.setV V)
  | .bufferFull => .bufferFull
  | .stop f => .stop f

section

variable (s : State) (V : Nat) (c : Channel) (p : Peripheral) (st : Status) (data v rx : Element) (keep : Bool)

/-! ### The small lemmas of setV -/

@[simp] theorem State.setV_cfg : (s.setV V).cfg = { s.cfg with V := V } := rfl
@[simp] theorem State.setV_uart : (s.setV V).uart = s.uart := rfl
@[simp] theorem State.setV_spi : (s.setV V).spi = s.spi := rfl
@[simp] theorem State.setV_skip : (s.setV V).skip = s.skip := rfl
@[simp] theorem State.setV_ring : (s.setV V).ring c = s.ring c := by cases c <;> rfl
@[simp] theorem State.setV_driver : (s.setV V).driver p = s.driver p := by cases p <;> rfl

@[simp] theorem State.setRing_setV (r : Ring) : (s.setV V).setRing c r = (s.setRing c r).setV V := by cases c <;> rfl
@[simp] theorem State.setDriver_setV (d : Driver) : (s.setV V).setDriver p d = (s.setDriver p d).setV V := by
  cases p <;> rfl
@[simp] theorem State.setSkip_setV (f : SkipFlags) : (s.setV V).setSkip f = (s.setSkip f).setV V := rfl
@[simp] theorem State.emit_setV (o : Output) : (s.setV V).emit o = (s.emit o).setV V := rfl

@[simp] theorem outcomeSetV_next : outcomeSetV V (.next s) = .next (s.setV V) := rfl
@[simp] theorem outcomeSetV_fault (f : Fault) : outcomeSetV V (.fault f) = .fault f := rfl

/-! ### The shared operations do not read `V` -/

@[simp] theorem respond_setV : respond st data (s.setV V) = outcomeSetV V (respond st data s) := rfl

@[simp] theorem raiseStatus_setV : raiseStatus st (s.setV V) = outcomeSetV V (raiseStatus st s) := rfl

@[simp] theorem resetDriverOf_setV : resetDriverOf c (s.setV V) = (resetDriverOf c s).setV V := by cases c <;> rfl

@[simp] theorem stageSlot_setV : stageSlot p v (s.setV V) = (stageSlot p v s).setV V := by simp [stageSlot]

@[simp] theorem enqueue_setV : enqueue p v (s.setV V) = (enqueue p v s).setV V := by
  simp only [enqueue, State.setV_driver, State.setV_ring, State.setV_cfg]
  cases fastPath (s.driver p) (s.ring (txOf p)) with
  | true => simp [EnqueueResult.setV]
  | false => cases rbPush s.cfg.N (txOf p) v (s.ring (txOf p)) <;> simp [EnqueueResult.setV]

@[simp] theorem dequeue_setV : dequeue p (s.setV V) = outcomeSetV V (dequeue p s) := by
  simp only [dequeue, State.setV_ring, State.setV_cfg]
  cases rbPop s.cfg.N (rxOf p) (s.ring (rxOf p)) <;> simp

@[simp] theorem emitSent_setV : emitSent p (s.setV V) = (emitSent p s).setV V := by simp [emitSent]

@[simp] theorem emitDrawn_setV : emitDrawn (s.setV V) = (emitDrawn s).setV V := rfl

@[simp] theorem fireHook_setV : fireHook p (s.setV V) = (fireHook p s).setV V := by
  cases h : (s.driver p).hook <;> simp [fireHook, h]

@[simp] theorem harvest_setV : harvest p keep rx (s.setV V) = (harvest p keep rx s).map (State.setV · V) := by
  cases keep with
  | false => rfl
  | true =>
    simp only [harvest, State.setV_ring, State.setV_cfg]
    cases rbPush s.cfg.N (rxOf p) rx (s.ring (rxOf p)) <;> simp [Except.map]

@[simp] theorem refill_setV : refill p (s.setV V) = (refill p s).map (State.setV · V) := by
  simp only [refill, State.setV_driver, State.setV_ring, State.setV_cfg]
  cases rbPop s.cfg.N (txOf p) (s.ring (txOf p)) <;> simp [Except.map]

@[simp] theorem finishExchange_setV : finishExchange p keep rx (s.setV V) = outcomeSetV V (finishExchange p keep rx s) := by
  simp only [finishExchange, harvest_setV]
  cases harvest p keep rx s with
  | error f => rfl
  | ok a =>
    simp only [Except.map, refill_setV]
    cases refill p a <;> simp

/-! ### Both events do not read `V` -/

theorem execXchgU_setV : execXchgU rx (s.setV V) = outcomeSetV V (execXchgU rx s) := by
  cases h : s.uart.loaded <;> simp [execXchgU, h]

theorem execXchgS_setV : execXchgS rx (s.setV V) = outcomeSetV V (execXchgS rx s) := by
  cases h : s.spi.loaded <;> simp [execXchgS, h]

end

/-! ### ENQ.S, the one operation that reads `V` -/

/-- Where there is room for one more decision, SF.RECORD does the same at every width (R92). -/
theorem sfRecord_of_pos_lt {V : Nat} {keep : Bool} {f : SkipFlags} (h : f.pos < V) :
    sfRecord V keep f = .ok { vec := writeBit f.vec f.pos keep, pos := f.pos + 1 } := if_pos h

/-- An accepted ENQ.S finds at most `N` decisions pending: none on the fast path, and on the slow path `pos = cnt[SPI_TX] + loaded[SPI]`
(R31) with a ring that was not full. -/
theorem pos_le_of_enqueue_accepted {s t : State} {v : Element} (hs : s.WF) (h : enqueue .spi v s = .accepted t) :
    t.cfg = s.cfg ∧ t.skip.pos ≤ s.cfg.N := by
  obtain ⟨-, ⟨-, -, -, hring⟩, -, -, hpos, -⟩ := hs
  obtain ⟨-, -, hcnt, -⟩ := hring
  obtain ⟨hfast, rfl⟩ | ⟨-, r, hpush, rfl⟩ := enqueue_accepted h
  · have hnone : s.skip.pos = 0 := by simp_all [fastPath, rbEmpty]
    simp [stageSlot, hnone]
  · have hroom : s.spiTx.cnt ≠ s.cfg.N := (rbPush_ok hpush).1
    have hloaded := s.spi.loaded.toNat_le
    refine ⟨by simp, ?_⟩
    simp only [State.setDriver_skip, State.setRing_skip]
    omega

theorem execEnqS_setV {s : State} {V : Nat} (hs : s.WF) (hV : s.cfg.N + 1 ≤ V) (value : Element) (keep : Bool) :
    execEnqS value keep (s.setV V) = outcomeSetV V (execEnqS value keep s) := by
  simp only [execEnqS, enqueue_setV]
  cases henq : enqueue .spi value s with
  | bufferFull => rfl
  | stop f => rfl
  | accepted t =>
    obtain ⟨hcfg, hpos⟩ := pos_le_of_enqueue_accepted hs henq
    have hsV : s.cfg.N + 1 ≤ s.cfg.V := hs.1.2
    have hown : t.skip.pos < t.cfg.V := by rw [hcfg]; omega
    have hother : t.skip.pos < V := by omega
    simp [EnqueueResult.setV, sfRecord_of_pos_lt hown, sfRecord_of_pos_lt hother]

/-! ### Every operation -/

/-- Changing `V` commutes with every operation on a well-formed state, the outcomes that are no next state included (R8). -/
theorem exec_setV {s : State} {V : Nat} (hs : s.WF) (hV : s.cfg.N + 1 ≤ V) (i : Instr) :
    exec i (s.setV V) = outcomeSetV V (exec i s) := by
  cases i with
  | enqU value =>
    simp only [exec, execEnqU, enqueue_setV]
    cases enqueue .uart value s <;> rfl
  | enqS value keep => exact execEnqS_setV hs hV value keep
  | deqU => exact dequeue_setV s V .uart
  | deqS => exact dequeue_setV s V .spi
  | rst c => simp [exec, execRst]
  | empty c => simp [exec, execEmpty]
  | full c => simp [exec, execFull]
  | hookset p => simp [exec, execHookset]
  | hookclr p => simp [exec, execHookclr]
  | xchgU rx => exact execXchgU_setV s V rx
  | xchgS rx => exact execXchgS_setV s V rx

/-- Settles O48: an operation that completes does so at every admissible `V`, since a change of `V` commutes with it. -/
theorem vectorWidthIsUnobservable : Obligations.VectorWidthIsUnobservable := by
  intro i s t V hs hV h
  calc exec i (s.setV V) = outcomeSetV V (exec i s) := exec_setV hs hV i
    _ = .next (t.setV V) := by rw [h, outcomeSetV_next]

end Sys2Proof.Machine
end
section
/-!
PROOFS. What the ring-buffer micro-operations do to a well-formed ring and to the queue it stands for (10_state.md R22, R23, R24,
40_ring_buffer.md R81, R82, R85). The part of well-formedness that needs no width, `Ring.Aligned`, is kept whatever element is pushed.
-/
namespace Sys2Proof.Machine

/-- The indices and the counter agree and the live window was written (R22, R23, R62): a well-formed ring but for the form and the
width of what its array holds. -/
structure Ring.Aligned (N : Nat) (r : Ring) : Prop where
  rd_lt : r.rd < N
  cnt_le : r.cnt ≤ N
  wr_eq : r.wr = (r.rd + r.cnt) % N
  written : LiveWindowWritten N r

/-- A ring is well-formed when it is aligned and its array is in canonical form and in range. -/
theorem ringWF_iff {c : Config} {r : Ring} : RingWF c r ↔ r.Aligned c.N ∧ r.buf.wf ∧ MemoryInRange c r.buf := by
  constructor
  · rintro ⟨hrd, -, hcnt, hwr, hwf, hrange, hlive⟩
    exact ⟨⟨hrd, hcnt, hwr, hlive⟩, hwf, hrange⟩
  · rintro ⟨⟨hrd, hcnt, hwr, hlive⟩, hwf, hrange⟩
    exact ⟨hrd, hwr ▸ Nat.mod_lt _ (Nat.zero_lt_of_lt hrd), hcnt, hwr, hwf, hrange, hlive⟩

theorem RingWF.aligned {c : Config} {r : Ring} (h : RingWF c r) : r.Aligned c.N := (ringWF_iff.1 h).1

variable {N : Nat} {ch : Channel} {v : Element} {r q : Ring}

/-! ### Indices -/

theorem Ring.Aligned.wr_lt (h : r.Aligned N) : r.wr < N := h.wr_eq ▸ Nat.mod_lt _ (Nat.zero_lt_of_lt h.rd_lt)

/-- Position `k` counted from the next index is position `k + 1` counted from the index itself (R19). -/
theorem nextIndex_add_mod (N i k : Nat) : (nextIndex N i + k) % N = (i + (k + 1)) % N := by
  rw [nextIndex, Nat.mod_add_mod, Nat.add_right_comm, Nat.add_assoc]

/-- With room left, the write index is outside the live window (R81: "RB.PUSH never overwrites a live element"). -/
theorem Ring.Aligned.live_ne_wr (h : r.Aligned N) (hroom : r.cnt ≠ N) {k : Nat} (hk : k < r.cnt) :
    (r.rd + k) % N ≠ r.wr := by
  intro heq
  have hcnt : r.cnt < N := Nat.lt_of_le_of_ne h.cnt_le hroom
  have hmod : k ≡ r.cnt [MOD N] := Nat.ModEq.add_left_cancel' r.rd (heq.trans h.wr_eq)
  have : k = r.cnt := Nat.ModEq.eq_of_lt_of_lt hmod (hk.trans hcnt) hcnt
  omega

/-! ### When a push or a pop succeeds -/

/-- A push with room left stores at the write index. -/
theorem Ring.Aligned.push_eq (h : r.Aligned N) (hroom : r.cnt ≠ N) : rbPush N ch v r =
    .ok { r with buf := r.buf.write r.wr v, wr := nextIndex N r.wr, cnt := r.cnt + 1 } := by
  simp [rbPush, rbFull, hroom, h.wr_lt]

/-- A pop of a ring that is not empty finds an element. -/
theorem Ring.Aligned.exists_pop (h : r.Aligned N) (hcnt : r.cnt ≠ 0) : ∃ v q, rbPop N ch r = .ok v q := by
  obtain ⟨v, hv⟩ := Option.isSome_iff_exists.1 (h.written 0 (Nat.pos_of_ne_zero hcnt))
  rw [Nat.add_zero, Nat.mod_eq_of_lt h.rd_lt] at hv
  exact ⟨v, { r with rd := nextIndex N r.rd, cnt := r.cnt - 1 }, by simp [rbPop, rbEmpty, hcnt, h.rd_lt, hv]⟩

/-! ### The three operations keep well-formedness -/

theorem Ring.Aligned.push (h : r.Aligned N) (hpush : rbPush N ch v r = .ok q) : q.Aligned N := by
  obtain ⟨hroom, -, rfl⟩ := rbPush_ok hpush
  have hle := h.cnt_le
  refine ⟨h.rd_lt, by simp only; omega, ?_, fun k hk => ?_⟩
  · simp only [nextIndex]
    rw [h.wr_eq, Nat.mod_add_mod, Nat.add_assoc]
  · rcases Nat.lt_succ_iff_lt_or_eq.1 hk with hk | rfl
    · rw [Memory.read_write_of_ne (h.live_ne_wr hroom hk)]
      exact h.written k hk
    · simp [← h.wr_eq]

theorem Ring.Aligned.pop (h : r.Aligned N) (hpop : rbPop N ch r = .ok v q) : q.Aligned N := by
  obtain ⟨hcnt, hrd, -, rfl⟩ := rbPop_ok hpop
  have hle := h.cnt_le
  refine ⟨Nat.mod_lt _ (Nat.zero_lt_of_lt hrd), by simp only; omega, ?_, fun k hk => ?_⟩
  · simp only
    rw [nextIndex_add_mod, Nat.sub_add_cancel (Nat.pos_of_ne_zero hcnt), h.wr_eq]
  · simp only at hk ⊢
    rw [nextIndex_add_mod]
    exact h.written (k + 1) (by omega)

/-- RB.RESET leaves an aligned ring, whatever it was (R85). -/
theorem rbReset_aligned (r : Ring) (hN : 0 < N) : (rbReset r).Aligned N :=
  ⟨hN, Nat.zero_le N, (Nat.zero_mod N).symm, fun k hk => absurd hk (Nat.not_lt_zero k)⟩

theorem RingWF.push {c : Config} (h : RingWF c r) (hv : c.W.fits v = true) (hpush : rbPush c.N ch v r = .ok q) :
    RingWF c q := by
  obtain ⟨hal, hwf, hrange⟩ := ringWF_iff.1 h
  have hq := hal.push hpush
  obtain ⟨-, hwr, rfl⟩ := rbPush_ok hpush
  exact ringWF_iff.2 ⟨hq, Memory.wf_write hwf _ _, hrange.write hwr hv⟩

theorem RingWF.pop {c : Config} (h : RingWF c r) (hpop : rbPop c.N ch r = .ok v q) : RingWF c q := by
  obtain ⟨hal, hwf, hrange⟩ := ringWF_iff.1 h
  have hq := hal.pop hpop
  obtain ⟨-, -, -, rfl⟩ := rbPop_ok hpop
  exact ringWF_iff.2 ⟨hq, hwf, hrange⟩

/-- What a pop returns is a `W`-bit element. -/
theorem RingWF.fits_of_pop {c : Config} (h : RingWF c r) (hpop : rbPop c.N ch r = .ok v q) : c.W.fits v = true := by
  obtain ⟨-, -, hrange⟩ := ringWF_iff.1 h
  obtain ⟨-, -, hread, -⟩ := rbPop_ok hpop
  exact hrange.read hread

theorem RingWF.reset {c : Config} (h : RingWF c r) : RingWF c (rbReset r) := by
  obtain ⟨hal, hwf, hrange⟩ := ringWF_iff.1 h
  exact ringWF_iff.2 ⟨rbReset_aligned r (Nat.zero_lt_of_lt hal.rd_lt), hwf, hrange⟩

/-- The empty ring of power-on reset is aligned. -/
theorem Ring.reset_aligned (hN : 0 < N) : Ring.reset.Aligned N := rbReset_aligned Ring.reset hN

theorem RingWF.of_reset {c : Config} (hc : c.WF) : RingWF c Ring.reset :=
  ringWF_iff.2 ⟨Ring.reset_aligned hc.1, Ring.reset_wf, fun _ hx => absurd hx List.not_mem_nil⟩

/-! ### The queue (R24) -/

theorem Ring.Aligned.length_queue (h : r.Aligned N) : (r.queue N).length = r.cnt := by
  have hall : ∀ k ∈ List.range r.cnt, (r.buf.read ((r.rd + k) % N)).isSome = true :=
    fun k hk => h.written k (List.mem_range.1 hk)
  rw [Ring.queue, List.length_filterMap_eq_countP, List.countP_eq_length.2 hall, List.length_range]

/-- RB.PUSH appends to the queue. -/
theorem Ring.Aligned.queue_push (h : r.Aligned N) (hpush : rbPush N ch v r = .ok q) : q.queue N = r.queue N ++ [v] := by
  obtain ⟨hroom, -, rfl⟩ := rbPush_ok hpush
  have hold : ∀ k ∈ List.range r.cnt,
      (r.buf.write r.wr v).read ((r.rd + k) % N) = r.buf.read ((r.rd + k) % N) :=
    fun k hk => Memory.read_write_of_ne (h.live_ne_wr hroom (List.mem_range.1 hk))
  simp only [Ring.queue, List.range_succ, List.filterMap_append, List.filterMap_congr hold]
  simp [← h.wr_eq]

/-- RB.POP removes the head of the queue. -/
theorem queue_pop (hpop : rbPop N ch r = .ok v q) : r.queue N = v :: q.queue N := by
  obtain ⟨hcnt, hrd, hread, rfl⟩ := rbPop_ok hpop
  obtain ⟨n, hn⟩ := Nat.exists_eq_succ_of_ne_zero hcnt
  simp only [Ring.queue, hn, Nat.succ_eq_add_one, Nat.add_sub_cancel, List.range_succ_eq_map, List.filterMap_cons,
    List.filterMap_map, Nat.add_zero, Nat.mod_eq_of_lt hrd, hread, Function.comp_def, nextIndex_add_mod]

@[simp] theorem queue_rbReset : (rbReset r).queue N = [] := rfl

/-- Settles O19, from the lemmas about each micro-operation. -/
theorem ringOperationsActOnTheQueue : Obligations.RingOperationsActOnTheQueue := by
  intro c ch r h
  exact ⟨h.aligned.length_queue,
    fun _ _ hv hpush => ⟨h.aligned.queue_push hpush, h.push hv hpush⟩,
    fun _ _ hpop => ⟨queue_pop hpop, h.pop hpop⟩,
    queue_rbReset, h.reset⟩

end Sys2Proof.Machine
end

section
/-!
PROOFS. What the micro-operations of the Skip-Flag Vector do to the pending decisions (10_state.md R30, 41_skip_flag_vector.md R92, R93)
and to the range of the register (R32).
-/
namespace Sys2Proof.Machine

@[simp] theorem length_decisions (f : SkipFlags) : f.decisions.length = f.pos := by simp [SkipFlags.decisions]

/-- SF.RECORD appends the decision. -/
theorem decisions_record {V : Nat} {keep : Bool} {f g : SkipFlags} (h : sfRecord V keep f = .ok g) :
    g.decisions = f.decisions ++ [keep] := by
  obtain ⟨-, rfl⟩ := sfRecord_ok h
  have hold : ∀ k ∈ List.range f.pos, (writeBit f.vec f.pos keep).testBit k = f.vec.testBit k := by
    intro k hk
    rw [testBit_writeBit, if_neg (Nat.ne_of_lt (List.mem_range.1 hk))]
  simp only [SkipFlags.decisions, List.range_succ, List.map_append, List.map_congr_left hold]
  simp [testBit_writeBit]

/-- SF.CONSUME with a decision pending answers the first and leaves the rest. -/
theorem decisions_consume (idleKeep : Bool) {f : SkipFlags} (h : f.pos ≠ 0) :
    f.decisions = (sfConsume idleKeep f).1 :: (sfConsume idleKeep f).2.decisions := by
  obtain ⟨n, hn⟩ := Nat.exists_eq_succ_of_ne_zero h
  rw [sfConsume_pending h]
  simp only [SkipFlags.decisions, hn, Nat.succ_eq_add_one, Nat.add_sub_cancel, List.range_succ_eq_map, List.map_cons, List.map_map,
    Function.comp_def, Nat.testBit_shiftRight, Nat.add_comm 1]

/-- Settles O24, from the lemmas about each micro-operation. -/
theorem vectorOperationsActOnTheDecisions : Obligations.VectorOperationsActOnTheDecisions := fun f =>
  ⟨length_decisions f, fun _ _ _ => decisions_record, fun idleKeep => decisions_consume idleKeep⟩

/-! ### Every bit at or above `pos` stays 0 (R32) -/

theorem record_pos {V : Nat} {keep : Bool} {f g : SkipFlags} (h : sfRecord V keep f = .ok g) : g.pos = f.pos + 1 := by
  obtain ⟨-, rfl⟩ := sfRecord_ok h
  rfl

theorem record_vec_lt {V : Nat} {keep : Bool} {f g : SkipFlags} (h : sfRecord V keep f = .ok g) (hf : f.vec < 2 ^ f.pos) :
    g.vec < 2 ^ g.pos := by
  obtain ⟨-, rfl⟩ := sfRecord_ok h
  refine Nat.lt_pow_two_of_testBit _ fun k hk => ?_
  have hne : k ≠ f.pos := by simp only at hk; omega
  rw [testBit_writeBit, if_neg hne]
  exact Nat.testBit_lt_two_pow (hf.trans_le (Nat.pow_le_pow_right two_pos (Nat.le_of_succ_le hk)))

@[simp] theorem consume_pos (idleKeep : Bool) (f : SkipFlags) : (sfConsume idleKeep f).2.pos = f.pos - 1 := by
  by_cases h : f.pos = 0
  · simp [sfConsume_idle h, h]
  · simp [sfConsume_pending h]

theorem consume_vec_lt (idleKeep : Bool) {f : SkipFlags} (hf : f.vec < 2 ^ f.pos) :
    (sfConsume idleKeep f).2.vec < 2 ^ (sfConsume idleKeep f).2.pos := by
  by_cases h : f.pos = 0
  · simpa [sfConsume_idle h] using hf
  · obtain ⟨n, hn⟩ := Nat.exists_eq_succ_of_ne_zero h
    rw [hn, Nat.pow_succ] at hf
    simp only [sfConsume_pending h, hn, Nat.succ_eq_add_one, Nat.add_sub_cancel, Nat.shiftRight_eq_div_pow, Nat.pow_one]
    omega

end Sys2Proof.Machine
end
section
/-!
PROOFS. The elements the decoders deliver fit the build's width (30_encoding.md R68 (f), R72), so a fetched instruction is well-formed.
-/
namespace Sys2Proof

/-- Only the ENQ rows take an element, and both check it. -/
theorem wellFormed_of_decodeCommand {w : Width} {x : Word32} {i : Instr} (h : decodeCommand w x = some i) :
    i.wellFormed w = true := by
  unfold decodeCommand at h
  split_ifs at h with _ _ henqU henqS
  · cases h; exact henqU.2.2
  · cases h; exact henqS.2
  · cases h; rfl
  · cases h; rfl
  all_goals
    obtain ⟨_, -, rfl⟩ := Option.map_eq_some_iff.1 h
    rfl

/-- Both event rows check their element. -/
theorem wellFormed_of_decodeEvent {w : Width} {x : Word32} {i : Instr} (h : decodeEvent w x = some i) :
    i.wellFormed w = true := by
  unfold decodeEvent at h
  split at h
  · next hfields =>
    obtain ⟨-, -, hfits⟩ := hfields
    split at h <;> cases h <;> exact hfits
  · cases h

namespace Machine

/-- What is fetched to be run is well-formed at the width of the configuration. -/
theorem fetch_run_wellFormed {s u : State} {i : Instr} (h : fetch s = .run i u) : i.wellFormed s.cfg.W = true := by
  obtain ⟨-, ⟨_, _, -, hevent⟩ | ⟨_, -, hcommand⟩⟩ := fetch_run h
  · exact wellFormed_of_decodeEvent (decodeStrobe_some hevent).1
  · exact wellFormed_of_decodeCommand hcommand

/-- A power-on reset takes place in the state the step found, but for the schedule. -/
theorem fetch_reset {s u : State} (h : fetch s = .reset u) : u = s.setSchedule (takeNext s.schedule).2 := by
  simp only [fetch] at h
  split at h
  · cases h
  · simpa using h.symm
  · split at h <;> cases h
  · split at h <;> cases h

/-- An illegal word is answered in the state the step found, but for the schedule. -/
theorem fetch_illegal {s u : State} (h : fetch s = .illegal u) : u = s.setSchedule (takeNext s.schedule).2 := by
  simp only [fetch] at h
  split at h
  · cases h
  · cases h
  · split at h <;> cases h
  · split at h
    · cases h
    · simpa using h.symm

end Machine
end Sys2Proof
end

section
/-!
PROOFS. What each operation can do when it completes, in terms of the shared operations of `Laws/Ops.lean`.
-/
namespace Sys2Proof.Machine

variable {s t : State}

/-- Everything ENQ.U can do (R100). -/
theorem execEnqU_next {v : Element} (h : execEnqU v s = .next t) :
    (∃ u, enqueue .uart v s = .accepted u ∧ t = u.emit (.response (responseWord .ok 0))) ∨
    (enqueue .uart v s = .bufferFull ∧ t = s.emit (.response (responseWord .bufferFull 0))) := by
  simp only [execEnqU] at h
  split at h
  · exact .inl ⟨_, ‹_›, respond_next h⟩
  · exact .inr ⟨‹_›, raiseStatus_next h⟩
  · cases h

/-- Everything ENQ.S can do (R101). -/
theorem execEnqS_next {v : Element} {keep : Bool} (h : execEnqS v keep s = .next t) :
    (∃ u f, enqueue .spi v s = .accepted u ∧ sfRecord u.cfg.V keep u.skip = .ok f ∧
      t = (u.setSkip f).emit (.response (responseWord .ok 0))) ∨
    (enqueue .spi v s = .bufferFull ∧ t = s.emit (.response (responseWord .bufferFull 0))) := by
  simp only [execEnqS] at h
  split at h
  · split at h
    · exact .inl ⟨_, _, ‹_›, ‹_›, respond_next h⟩
    · cases h
  · exact .inr ⟨‹_›, raiseStatus_next h⟩
  · cases h

/-- The wire record of a UART exchange: none, when nothing is loaded (R116, R122). -/
def recordSentU (s : State) : State := if s.uart.loaded then emitSent .uart s else s

/-- The wire record of an SPI exchange: the staged element, or a free value (R117, R121). -/
def recordSentS (s : State) : State := if s.spi.loaded then emitSent .spi s else emitDrawn s

/-- XCHG.U is its wire record and the common end of both events (R116). -/
theorem execXchgU_eq (rx : Element) (s : State) : execXchgU rx s = finishExchange .uart true rx (recordSentU s) := rfl

/-- XCHG.S is its wire record, the decision consumed, and the common end of both events (R117). -/
theorem execXchgS_eq (rx : Element) (s : State) : execXchgS rx s =
    finishExchange .spi (sfConsume s.cfg.idleKeep s.skip).1 rx
      ((recordSentS s).setSkip (sfConsume s.cfg.idleKeep s.skip).2) := rfl

/-- The wire record of a UART exchange changes nothing but the records. -/
theorem recordSentU_cases (s : State) : recordSentU s = s ∨ ∃ o, recordSentU s = s.emit o := by
  unfold recordSentU
  split
  · exact .inr ⟨_, rfl⟩
  · exact .inl rfl

/-- The wire record of an SPI exchange changes nothing but the records and the count of free values. -/
theorem recordSentS_cases (s : State) : ∃ o n, recordSentS s = { s.emit o with draws := n } := by
  unfold recordSentS
  split
  · exact ⟨_, s.draws, rfl⟩
  · exact ⟨_, s.draws + 1, rfl⟩

/-- The hook pulse changes nothing but the records. -/
theorem fireHook_cases (p : Peripheral) (s : State) : fireHook p s = s ∨ ∃ o, fireHook p s = s.emit o := by
  unfold fireHook
  split
  · exact .inr ⟨_, rfl⟩
  · exact .inl rfl

end Sys2Proof.Machine
end

section
/-!
PROOFS. Every step keeps well-formedness (10_state.md R44). `State.QueuesWF` is well-formedness without the alignment of the Skip-Flag
Vector, which holds in the middle of an SPI exchange as well; `State.pending` counts what the alignment is about (R31).
-/
namespace Sys2Proof.Machine

/-- The part of well-formedness that does not speak of the Skip-Flag Vector. -/
structure State.QueuesWF (s : State) : Prop where
  cfg : s.cfg.WF
  ring : ∀ c, RingWF s.cfg (s.ring c)
  driver : ∀ p, DriverWF s.cfg (s.driver p) (s.ring (txOf p))

/-- How many elements `p` has accepted and not yet sent: `cnt[TX(p)] + loaded[p]` (R31, R33). -/
def State.pending (s : State) (p : Peripheral) : Nat := (s.ring (txOf p)).cnt + (s.driver p).loaded.toNat

/-- The alignment invariant (R31, R32). -/
structure State.SkipAligned (s : State) : Prop where
  pos_eq : s.skip.pos = s.pending .spi
  vec_lt : s.skip.vec < 2 ^ s.skip.pos

theorem wf_iff {s : State} : s.WF ↔ s.QueuesWF ∧ s.SkipAligned := by
  constructor
  · rintro ⟨hcfg, ⟨huartRx, huartTx, hspiRx, hspiTx⟩, huart, hspi, hpos, hvec⟩
    exact ⟨⟨hcfg, fun c => by cases c <;> assumption, fun p => by cases p <;> assumption⟩, hpos, hvec⟩
  · rintro ⟨⟨hcfg, hring, hdriver⟩, hpos, hvec⟩
    exact ⟨hcfg, ⟨hring .uartRx, hring .uartTx, hring .spiRx, hring .spiTx⟩, hdriver .uart, hdriver .spi, hpos, hvec⟩

variable {s t : State} {p : Peripheral} {r : Ring} {d : Driver} {v : Element}

/-! ### Parts of the state that can be replaced -/

theorem State.QueuesWF.emit (h : s.QueuesWF) (o : Output) : (s.emit o).QueuesWF :=
  ⟨h.cfg, by simpa using h.ring, by simpa using h.driver⟩

theorem State.QueuesWF.setSkip (h : s.QueuesWF) (f : SkipFlags) : (s.setSkip f).QueuesWF :=
  ⟨h.cfg, by simpa using h.ring, by simpa using h.driver⟩

theorem State.QueuesWF.setRx (h : s.QueuesWF) (hr : RingWF s.cfg r) : (s.setRing (rxOf p) r).QueuesWF := by
  refine ⟨by simpa using h.cfg, fun c => ?_, fun q => ?_⟩
  · by_cases hc : c = rxOf p
    · subst hc; simpa using hr
    · simpa [State.setRing_ring_of_ne hc] using h.ring c
  · have hq : txOf q ≠ rxOf p := by cases p <;> cases q <;> simp
    simpa [State.setRing_ring_of_ne hq] using h.driver q

theorem State.QueuesWF.setTx (h : s.QueuesWF) (hr : RingWF s.cfg r) (hd : DriverWF s.cfg d r) :
    ((s.setRing (txOf p) r).setDriver p d).QueuesWF := by
  refine ⟨by simpa using h.cfg, fun c => ?_, fun q => ?_⟩
  · by_cases hc : c = txOf p
    · subst hc; simpa using hr
    · simpa [State.setRing_ring_of_ne hc] using h.ring c
  · by_cases hq : q = p
    · subst hq; simpa using hd
    · have hc : txOf q ≠ txOf p := by revert hq; cases p <;> cases q <;> simp
      simpa [State.setRing_ring_of_ne hc, State.setDriver_driver_of_ne hq] using h.driver q

/-- A driver can be replaced by one that suits its TX ring. -/
theorem State.QueuesWF.setDriver (h : s.QueuesWF) (hd : DriverWF s.cfg d (s.ring (txOf p))) :
    (s.setDriver p d).QueuesWF := by
  refine ⟨by simpa using h.cfg, by simpa using h.ring, fun q => ?_⟩
  by_cases hq : q = p
  · subst hq; simpa using hd
  · simpa [State.setDriver_driver_of_ne hq] using h.driver q

/-! ### What one part of an operation does to the queues -/

/-- A part of an operation leaves the vector and the configuration alone, keeps the queues well-formed, and brings the number of
elements pending at `p` to `n`. -/
structure BringsPendingTo (p : Peripheral) (n : Nat) (s t : State) : Prop where
  cfg : t.cfg = s.cfg
  skip : t.skip = s.skip
  wf : t.QueuesWF
  pending : t.pending p = n
  other : ∀ q, q ≠ p → t.pending q = s.pending q

theorem BringsPendingTo.trans {n m : Nat} {u : State} (h : BringsPendingTo p n s t) (h' : BringsPendingTo p m t u) :
    BringsPendingTo p m s u :=
  ⟨h'.cfg.trans h.cfg, h'.skip.trans h.skip, h'.wf, h'.pending, fun q hq => (h'.other q hq).trans (h.other q hq)⟩

theorem BringsPendingTo.emit {n : Nat} (h : BringsPendingTo p n s t) (o : Output) : BringsPendingTo p n s (t.emit o) :=
  ⟨h.cfg, h.skip, h.wf.emit o, by simpa [State.pending] using h.pending, by simpa [State.pending] using h.other⟩

/-- A new TX ring and driver of `p`. -/
theorem State.QueuesWF.setTx_bringsPendingTo (h : s.QueuesWF) (hr : RingWF s.cfg r) (hd : DriverWF s.cfg d r) :
    BringsPendingTo p (r.cnt + d.loaded.toNat) s ((s.setRing (txOf p) r).setDriver p d) := by
  refine ⟨by simp, by simp, h.setTx hr hd, by simp [State.pending], fun q hq => ?_⟩
  have hc : txOf q ≠ txOf p := by revert hq; cases p <;> cases q <;> simp
  simp [State.pending, State.setRing_ring_of_ne hc, State.setDriver_driver_of_ne hq]

/-- A new driver of `p`. -/
theorem State.QueuesWF.setDriver_bringsPendingTo (h : s.QueuesWF) (hd : DriverWF s.cfg d (s.ring (txOf p))) :
    BringsPendingTo p ((s.ring (txOf p)).cnt + d.loaded.toNat) s (s.setDriver p d) := by
  refine ⟨by simp, by simp, h.setDriver hd, by simp [State.pending], fun q hq => ?_⟩
  simp [State.pending, State.setDriver_driver_of_ne hq]

/-- A new RX ring of `p`. -/
theorem State.QueuesWF.setRx_bringsPendingTo (h : s.QueuesWF) (hr : RingWF s.cfg r) :
    BringsPendingTo p (s.pending p) s (s.setRing (rxOf p) r) := by
  have hpending : ∀ q, (s.setRing (rxOf p) r).pending q = s.pending q := fun q => by
    cases p <;> cases q <;> rfl
  exact ⟨by simp, by simp, h.setRx hr, hpending p, fun q _ => hpending q⟩

theorem State.QueuesWF.bringsPendingTo_self (h : s.QueuesWF) (p : Peripheral) : BringsPendingTo p (s.pending p) s s :=
  ⟨rfl, rfl, h, rfl, fun _ _ => rfl⟩

/-! ### Enqueue, dequeue, harvest, refill -/

/-- An accepted enqueue adds one element. On the slow path the slot is loaded: nothing is queued behind an empty slot (R35). -/
theorem enqueue_bringsPendingTo (h : s.QueuesWF) (hv : s.cfg.W.fits v = true) (ht : enqueue p v s = .accepted t) :
    BringsPendingTo p (s.pending p + 1) s t := by
  obtain ⟨hslot, hidle, hnotify⟩ := h.driver p
  obtain ⟨hfast, rfl⟩ | ⟨hslow, r, hpush, rfl⟩ := enqueue_accepted ht
  · have hnew := h.setDriver_bringsPendingTo (p := p) (d := { s.driver p with slot := v, loaded := true })
      ⟨hv, by simp, hnotify⟩
    have hempty : (s.driver p).loaded = false := by simp_all [fastPath]
    simpa [State.pending, stageSlot, hempty] using hnew
  · have hr := (h.ring (txOf p)).push hv hpush
    have hloaded : (s.driver p).loaded = true := by
      by_contra hn
      simp_all [fastPath, rbEmpty]
    have hcnt : r.cnt = (s.ring (txOf p)).cnt + 1 := by obtain ⟨-, -, rfl⟩ := rbPush_ok hpush; rfl
    have hnew := h.setTx_bringsPendingTo (p := p) (d := { s.driver p with notify := true }) hr
      ⟨hslot, by simp [hloaded], by simp⟩
    simpa [State.pending, hloaded, hcnt] using hnew

/-- A dequeue leaves what is pending alone. -/
theorem dequeue_bringsPendingTo (h : s.QueuesWF) (ht : dequeue p s = .next t) : BringsPendingTo p (s.pending p) s t := by
  obtain ⟨v, r, hpop, rfl⟩ | ⟨-, rfl⟩ := dequeue_next ht
  · exact (h.setRx_bringsPendingTo ((h.ring _).pop hpop)).emit _
  · exact (h.bringsPendingTo_self p).emit _

/-- The harvest leaves what is pending alone. -/
theorem harvest_bringsPendingTo {keep : Bool} (h : s.QueuesWF) (hv : s.cfg.W.fits v = true)
    (ht : harvest p keep v s = .ok t) : BringsPendingTo p (s.pending p) s t := by
  obtain ⟨-, r, hpush, rfl⟩ | ⟨-, rfl⟩ := harvest_ok ht
  · exact h.setRx_bringsPendingTo ((h.ring _).push hv hpush)
  · exact h.bringsPendingTo_self p

/-- The refill ends the exchange of one element, if one was pending. -/
theorem refill_bringsPendingTo (h : s.QueuesWF) (ht : refill p s = .ok t) : BringsPendingTo p (s.pending p - 1) s t := by
  obtain ⟨hslot, hidle, -⟩ := h.driver p
  obtain ⟨v, r, hpop, rfl⟩ | ⟨hempty, rfl⟩ := refill_ok ht
  · obtain ⟨hcnt, -, -, hr⟩ := rbPop_ok hpop
    have hloaded : (s.driver p).loaded = true := by
      by_contra hn
      exact hcnt (hidle (by simpa using hn))
    have hnew := h.setTx_bringsPendingTo (p := p) (d := { s.driver p with slot := v, loaded := true, notify := true })
      ((h.ring _).pop hpop) ⟨(h.ring _).fits_of_pop hpop, by simp, by simp⟩
    have hn : r.cnt + 1 = s.pending p - 1 := by simp [State.pending, hloaded, hr, Nat.sub_add_cancel (Nat.pos_of_ne_zero hcnt)]
    simpa [hn] using hnew
  · have hnew := h.setDriver_bringsPendingTo (p := p) (d := { s.driver p with loaded := false, notify := false })
      ⟨hslot, by simp [hempty], by simp [hempty]⟩
    have hn : 0 = s.pending p - 1 := by cases hl : (s.driver p).loaded <;> simp [State.pending, hempty, hl]
    simpa [hempty, ← hn] using hnew

/-- The common end of both events. -/
theorem finishExchange_bringsPendingTo {keep : Bool} (h : s.QueuesWF) (hv : s.cfg.W.fits v = true)
    (ht : finishExchange p keep v s = .next t) : BringsPendingTo p (s.pending p - 1) s t := by
  obtain ⟨a, b, hharvest, hrefill, rfl⟩ := finishExchange_next ht
  have ha := harvest_bringsPendingTo h hv hharvest
  have hb := ha.trans (refill_bringsPendingTo ha.wf hrefill)
  rw [ha.pending] at hb
  obtain hhook | ⟨o, hhook⟩ := fireHook_cases p b
  · rwa [hhook]
  · exact hhook ▸ hb.emit o

/-- RST of a ring buffer; for a TX channel the driver goes Idle (R104). -/
theorem resetDriverOf_queuesWF (h : s.QueuesWF) (c : Channel) :
    (resetDriverOf c (s.setRing c (rbReset (s.ring c)))).QueuesWF := by
  have hr : RingWF s.cfg (rbReset (s.ring c)) := (h.ring c).reset
  have hidle : ∀ p, DriverWF s.cfg { s.driver p with loaded := false, notify := false } (rbReset (s.ring (txOf p))) :=
    fun p => ⟨(h.driver p).1, fun _ => rfl, fun hpos => absurd hpos (Nat.lt_irrefl 0)⟩
  cases c with
  | uartRx => exact h.setRx (p := .uart) hr
  | spiRx => exact h.setRx (p := .spi) hr
  | uartTx => exact h.setTx (p := .uart) hr (hidle .uart)
  | spiTx => exact (h.setTx (p := .spi) hr (hidle .spi)).setSkip _

/-! ### Whole operations -/

/-- What does not touch the SPI side keeps the alignment. -/
theorem State.SkipAligned.of_eq (h : s.SkipAligned) (hskip : t.skip = s.skip) (hpending : t.pending .spi = s.pending .spi) :
    t.SkipAligned := ⟨by rw [hskip, hpending]; exact h.pos_eq, by rw [hskip]; exact h.vec_lt⟩

/-- A part that leaves the vector and the number of pending elements alone keeps well-formedness. -/
theorem BringsPendingTo.wf_of_pending_eq {n : Nat} (h : BringsPendingTo p n s t) (hs : s.WF) (hn : n = s.pending p) : t.WF := by
  have hpending : t.pending .spi = s.pending .spi := by
    by_cases hp : .spi = p
    · subst hp; exact h.pending.trans hn
    · exact h.other _ hp
  exact wf_iff.2 ⟨h.wf, (wf_iff.1 hs).2.of_eq h.skip hpending⟩

/-- A part that belongs to the UART keeps well-formedness. -/
theorem BringsPendingTo.wf_of_uart {n : Nat} (h : BringsPendingTo .uart n s t) (hs : s.WF) : t.WF :=
  wf_iff.2 ⟨h.wf, (wf_iff.1 hs).2.of_eq h.skip (h.other .spi (by decide))⟩

theorem State.WF.emit (h : s.WF) (o : Output) : (s.emit o).WF := h

/-- An accepted ENQ.S records one decision for the one element it adds (R101, D30, D31). -/
theorem execEnqS_wf {keep : Bool} (h : s.WF) (hv : s.cfg.W.fits v = true) (ht : execEnqS v keep s = .next t) :
    t.WF ∧ t.cfg = s.cfg := by
  obtain ⟨u, f, henq, hrec, rfl⟩ | ⟨-, rfl⟩ := execEnqS_next ht
  · obtain ⟨hqueues, hskip⟩ := wf_iff.1 h
    have hu := enqueue_bringsPendingTo hqueues hv henq
    rw [hu.skip] at hrec
    refine ⟨wf_iff.2 ⟨(hu.wf.setSkip f).emit _, ?_, record_vec_lt hrec hskip.vec_lt⟩, hu.cfg⟩
    calc f.pos = s.pending .spi + 1 := by rw [record_pos hrec, hskip.pos_eq]
      _ = u.pending .spi := hu.pending.symm
  · exact ⟨h.emit _, rfl⟩

/-- An SPI exchange consumes one decision for the one element it ends (R117, R118). -/
theorem execXchgS_wf (h : s.WF) (hv : s.cfg.W.fits v = true) (ht : execXchgS v s = .next t) : t.WF ∧ t.cfg = s.cfg := by
  obtain ⟨hqueues, hskip⟩ := wf_iff.1 h
  rw [execXchgS_eq] at ht
  obtain ⟨o, n, hsent⟩ := recordSentS_cases s
  rw [hsent] at ht
  have hend := finishExchange_bringsPendingTo
    (s := State.setSkip { s.emit o with draws := n } (sfConsume s.cfg.idleKeep s.skip).2)
    ⟨hqueues.cfg, hqueues.ring, hqueues.driver⟩ hv ht
  refine ⟨wf_iff.2 ⟨hend.wf, ?_, ?_⟩, hend.cfg⟩
  · rw [hend.skip, hend.pending, State.setSkip_skip, consume_pos, hskip.pos_eq]
    rfl
  · rw [hend.skip]
    exact consume_vec_lt _ hskip.vec_lt

/-- Every operation keeps well-formedness and the configuration. -/
theorem exec_wf {i : Instr} (h : s.WF) (hi : i.wellFormed s.cfg.W = true) (ht : exec i s = .next t) :
    t.WF ∧ t.cfg = s.cfg := by
  obtain ⟨hqueues, hskip⟩ := wf_iff.1 h
  cases i with
  | enqU value =>
    obtain ⟨u, henq, rfl⟩ | ⟨-, rfl⟩ := execEnqU_next ht
    · have hu := enqueue_bringsPendingTo hqueues hi henq
      exact ⟨(hu.wf_of_uart h).emit _, hu.cfg⟩
    · exact ⟨h.emit _, rfl⟩
  | enqS value keep => exact execEnqS_wf h hi ht
  | deqU =>
    have hu := dequeue_bringsPendingTo hqueues ht
    exact ⟨hu.wf_of_pending_eq h rfl, hu.cfg⟩
  | deqS =>
    have hu := dequeue_bringsPendingTo hqueues ht
    exact ⟨hu.wf_of_pending_eq h rfl, hu.cfg⟩
  | rst c =>
    obtain rfl := respond_next ht
    refine ⟨wf_iff.2 ⟨(resetDriverOf_queuesWF hqueues c).emit _, ?_⟩, by cases c <;> rfl⟩
    cases c with
    | uartRx => exact hskip.of_eq rfl rfl
    | uartTx => exact hskip.of_eq rfl rfl
    | spiRx => exact hskip.of_eq rfl rfl
    | spiTx => exact ⟨rfl, Nat.one_pos⟩
  | empty c => obtain rfl := respond_next ht; exact ⟨h.emit _, rfl⟩
  | full c => obtain rfl := respond_next ht; exact ⟨h.emit _, rfl⟩
  | hookset p =>
    obtain rfl := respond_next ht
    have hu := hqueues.setDriver_bringsPendingTo (d := { s.driver p with hook := true }) (hqueues.driver p)
    exact ⟨(hu.wf_of_pending_eq h rfl).emit _, hu.cfg⟩
  | hookclr p =>
    obtain rfl := respond_next ht
    have hu := hqueues.setDriver_bringsPendingTo (d := { s.driver p with hook := false }) (hqueues.driver p)
    exact ⟨(hu.wf_of_pending_eq h rfl).emit _, hu.cfg⟩
  | xchgU rx =>
    have ht' := (execXchgU_eq rx s).symm.trans ht
    obtain hsent | ⟨o, hsent⟩ := recordSentU_cases s <;> rw [hsent] at ht'
    · have hu := finishExchange_bringsPendingTo hqueues hi ht'
      exact ⟨hu.wf_of_uart h, hu.cfg⟩
    · have hu := finishExchange_bringsPendingTo (hqueues.emit o) hi ht'
      exact ⟨hu.wf_of_uart (h.emit o), hu.cfg⟩
  | xchgS rx => exact execXchgS_wf h hi ht

/-! ### Power-on reset and whole steps -/

/-- Every free value fits the width (R14). -/
theorem fits_drawElement (w : Width) (n : Nat) : w.fits (drawElement w n) = true := by
  cases w with
  | w8 =>
    have hle : (drawElement .w8 n).toNat ≤ 255 := by
      simp only [drawElement, truncateTo, BitVec.toNat_and]
      exact Nat.and_le_right
    have hlt : (drawElement .w8 n).toNat < 2 ^ Width.w8.bits := Nat.lt_of_le_of_lt hle (by decide)
    simpa [Width.fits] using hlt
  | w16 =>
    have hlt : (drawElement .w16 n).toNat < 2 ^ Width.w16.bits := BitVec.isLt _
    simpa [Width.fits] using hlt

/-- An idle driver with nothing queued is well-formed whatever `W`-bit value its slot holds. -/
theorem driverWF_reset {c : Config} (hv : c.W.fits v = true) : DriverWF c { Driver.reset with slot := v } Ring.reset :=
  ⟨hv, fun _ => rfl, fun hpos => absurd hpos (Nat.lt_irrefl 0)⟩

/-- A state with the control fields of power-on reset is well-formed, whatever the slots hold. -/
theorem resetWith_wf {c : Config} (hc : c.WF) {vU vS : Element} (hU : c.W.fits vU = true) (hS : c.W.fits vS = true)
    (n : Nat) (q : List Period) (o : List Output) :
    State.WF { State.resetWith c with
      uart := { Driver.reset with slot := vU }, spi := { Driver.reset with slot := vS }, draws := n, schedule := q, out := o } :=
  have hr := RingWF.of_reset hc
  ⟨hc, ⟨hr, hr, hr, hr⟩, driverWF_reset hU, driverWF_reset hS, rfl, Nat.one_pos⟩

theorem powerOnReset_wf (hc : s.cfg.WF) : (powerOnReset s).WF :=
  resetWith_wf hc (fits_drawElement _ _) (fits_drawElement _ _) _ _ _

/-- 0 fits every width. -/
theorem fits_zero (w : Width) : w.fits 0 = true := by cases w <;> decide

/-- Settles O49: the slots of the reset state hold 0, which fits every width. -/
theorem resetStateIsWellFormed : Obligations.ResetStateIsWellFormed :=
  have hreset := fun (c : Config) (q : List Period) (hc : c.WF) =>
    resetWith_wf hc (fits_zero c.W) (fits_zero c.W) 0 q []
  ⟨hreset, hreset Config.reference [] (by decide)⟩

theorem State.WF.setSchedule (h : s.WF) (q : List Period) : (s.setSchedule q).WF := h

/-- Settles O50, by what a step can do: nothing, a power-on reset, an operation, or an illegal word answered. -/
theorem stepKeepsWellFormed : Obligations.StepKeepsWellFormed := by
  intro s t h ht
  obtain ⟨hcfg, ⟨-, rfl⟩ | ⟨u, hfetch, rfl⟩ | ⟨i, u, hfetch, hexec⟩ | ⟨u, hfetch, rfl⟩⟩ := step_next ht
  · exact ⟨h, rfl⟩
  · obtain rfl := fetch_reset hfetch
    exact ⟨powerOnReset_wf hcfg, rfl⟩
  · obtain ⟨rfl, -⟩ := fetch_run hfetch
    have hi : i.wellFormed s.cfg.W = true := fetch_run_wellFormed hfetch
    exact exec_wf (s := s.setSchedule (takeNext s.schedule).2) (h.setSchedule _) hi hexec
  · obtain rfl := fetch_illegal hfetch
    exact ⟨(h.setSchedule _).emit _, rfl⟩

end Sys2Proof.Machine
end
section
/-!
PROOFS. The reset state (10_state.md R42) and what holds in every reachable state (R22, R23, R31, R32, R35, R36).
-/
namespace Sys2Proof.Machine

/-- Settles O14: every channel and every driver of the reset state is written out. -/
theorem resetControlState : Obligations.ResetControlState := by
  intro c ch p
  have hring : (State.resetWith c).ring ch = Ring.reset := by cases ch <;> rfl
  have hdriver : (State.resetWith c).driver p = Driver.reset := by cases p <;> rfl
  simp only [State.fsm, hring, hdriver]
  exact ⟨rfl, rfl, rfl, rfl, rfl, rfl, rfl, rfl, rfl, rfl⟩

/-- Every state reachable at an admitted configuration is well-formed, of that configuration. -/
theorem Reachable.wf {c : Config} {s : State} (hc : c.WF) (h : Reachable c s) : s.WF ∧ s.cfg = c := by
  induction h with
  | reset q => exact ⟨resetStateIsWellFormed.1 c q hc, rfl⟩
  | step _ hstep ih =>
    obtain ⟨hwf, hcfg⟩ := stepKeepsWellFormed _ _ ih.1 hstep
    exact ⟨hwf, hcfg.trans ih.2⟩

/-- Settles O51, reading each invariant off well-formedness. -/
theorem reachableStateInvariants : Obligations.ReachableStateInvariants := by
  intro c s hc hreach
  obtain ⟨hwf, rfl⟩ := hreach.wf hc
  obtain ⟨hqueues, hskip⟩ := wf_iff.1 hwf
  have hal := fun ch => (hqueues.ring ch).aligned
  have hpos : s.skip.pos ≤ s.cfg.N + 1 := by
    rw [hskip.pos_eq]
    exact Nat.add_le_add (hal .spiTx).cnt_le (Bool.toNat_le _)
  have hhigh : ∀ k, s.skip.pos ≤ k → s.skip.vec.testBit k = false := fun k hk =>
    Nat.testBit_lt_two_pow (hskip.vec_lt.trans_le (Nat.pow_le_pow_right two_pos hk))
  exact ⟨rfl, fun ch => ⟨(hal ch).cnt_le, (hal ch).wr_eq⟩, hskip.pos_eq, hpos, hhigh,
    fun p => (hqueues.driver p).2.1, fun p => (hqueues.driver p).2.2⟩

end Sys2Proof.Machine
end

section
/-!
PROOFS. What a relation between states must do for every operation to keep it. `RespectsParts` lists the tests and the parts of which
the operations are made; `exec_related` is the case analysis over the operations, done once for every such relation.
-/
namespace Sys2Proof.Machine

/-- Related states agree in all that an operation tests, and each part of an operation, done on both sides, keeps them related. -/
structure RespectsParts (R : State → State → Prop) : Prop where
  cfg {s s'} : R s s' → s'.cfg = s.cfg
  cnt {s s'} : R s s' → ∀ c, (s'.ring c).cnt = (s.ring c).cnt
  loaded {s s'} : R s s' → ∀ p, (s'.driver p).loaded = (s.driver p).loaded
  slot {s s'} : R s s' → ∀ p, (s.driver p).loaded = true → (s'.driver p).slot = (s.driver p).slot
  hooked {s s'} : R s s' → ∀ p, (s'.driver p).hook = (s.driver p).hook
  emit {s s'} : R s s' → ∀ o, R (s.emit o) (s'.emit o)
  drawn {s s'} : R s s' → R (emitDrawn s) (emitDrawn s')
  push {s s'} : R s s' → ∀ {c v r}, rbPush s.cfg.N c v (s.ring c) = .ok r →
    ∃ r', rbPush s'.cfg.N c v (s'.ring c) = .ok r' ∧ R (s.setRing c r) (s'.setRing c r')
  pop {s s'} : R s s' → ∀ {c v r}, rbPop s.cfg.N c (s.ring c) = .ok v r →
    ∃ r', rbPop s'.cfg.N c (s'.ring c) = .ok v r' ∧ R (s.setRing c r) (s'.setRing c r')
  reset {s s'} : R s s' → ∀ c, R (s.setRing c (rbReset (s.ring c))) (s'.setRing c (rbReset (s'.ring c)))
  stage {s s'} : R s s' → ∀ p v, R (stageSlot p v s) (stageSlot p v s')
  unload {s s'} : R s s' → ∀ p,
    R (s.setDriver p { s.driver p with loaded := false }) (s'.setDriver p { s'.driver p with loaded := false })
  notify {s s'} : R s s' → ∀ p b,
    R (s.setDriver p { s.driver p with notify := b }) (s'.setDriver p { s'.driver p with notify := b })
  hook {s s'} : R s s' → ∀ p b,
    R (s.setDriver p { s.driver p with hook := b }) (s'.setDriver p { s'.driver p with hook := b })
  record {s s'} : R s s' → ∀ {keep f}, sfRecord s.cfg.V keep s.skip = .ok f →
    ∃ f', sfRecord s'.cfg.V keep s'.skip = .ok f' ∧ R (s.setSkip f) (s'.setSkip f')
  decision {s s'} : R s s' → (sfConsume s'.cfg.idleKeep s'.skip).1 = (sfConsume s.cfg.idleKeep s.skip).1
  consume {s s'} : R s s' →
    R (s.setSkip (sfConsume s.cfg.idleKeep s.skip).2) (s'.setSkip (sfConsume s'.cfg.idleKeep s'.skip).2)
  forget {s s'} : R s s' → R (s.setSkip { vec := 0, pos := 0 }) (s'.setSkip { vec := 0, pos := 0 })

@[simp] theorem State.setDriver_setDriver (s : State) (p : Peripheral) (d e : Driver) :
    (s.setDriver p d).setDriver p e = s.setDriver p e := by cases p <;> rfl

variable {R : State → State → Prop} {s s' t : State} {p : Peripheral} {v : Element}

/-- The driver of `p` goes Idle on both sides. -/
theorem RespectsParts.idle (hR : RespectsParts R) (h : R s s') (p : Peripheral) :
    R (s.setDriver p { s.driver p with loaded := false, notify := false })
      (s'.setDriver p { s'.driver p with loaded := false, notify := false }) := by
  simpa using hR.notify (hR.unload h p) p false

theorem RespectsParts.fastPath_eq (hR : RespectsParts R) (h : R s s') (p : Peripheral) :
    fastPath (s'.driver p) (s'.ring (txOf p)) = fastPath (s.driver p) (s.ring (txOf p)) := by
  simp [fastPath, rbEmpty, hR.loaded h, hR.cnt h]

theorem RespectsParts.bufferFull (hR : RespectsParts R) (h : R s s') {c : Channel}
    (hfull : rbPush s.cfg.N c v (s.ring c) = .bufferFull) : rbPush s'.cfg.N c v (s'.ring c) = .bufferFull :=
  rbPush_bufferFull.2 (by rw [hR.cnt h, hR.cfg h]; exact rbPush_bufferFull.1 hfull)

theorem RespectsParts.bufferEmpty (hR : RespectsParts R) (h : R s s') {c : Channel}
    (hempty : (s.ring c).cnt = 0) : rbPop s'.cfg.N c (s'.ring c) = .bufferEmpty :=
  rbPop_bufferEmpty.2 ((hR.cnt h c).trans hempty)

/-! ### The shared operations -/

/-- The fast path of an enqueue (R100, R101). -/
theorem enqueue_of_fastPath (h : fastPath (s.driver p) (s.ring (txOf p)) = true) :
    enqueue p v s = .accepted (stageSlot p v s) := if_pos h

/-- The slow path of an enqueue that finds room (R100, R101). -/
theorem enqueue_of_push {r : Ring} (h : fastPath (s.driver p) (s.ring (txOf p)) = false)
    (hpush : rbPush s.cfg.N (txOf p) v (s.ring (txOf p)) = .ok r) :
    enqueue p v s = .accepted ((s.setRing (txOf p) r).setDriver p { s.driver p with notify := true }) := by
  simp [enqueue, h, hpush]

/-- A refill from a ring that holds an element (R116, R117). -/
theorem refill_of_pop {r : Ring} (hpop : rbPop s.cfg.N (txOf p) (s.ring (txOf p)) = .ok v r) :
    refill p s =
      .ok ((s.setRing (txOf p) r).setDriver p { s.driver p with slot := v, loaded := true, notify := true }) := by
  simp [refill, hpop]

theorem RespectsParts.enqueue_accepted (hR : RespectsParts R) (h : R s s') (ht : enqueue p v s = .accepted t) :
    ∃ t', enqueue p v s' = .accepted t' ∧ R t t' := by
  obtain ⟨hfast, rfl⟩ | ⟨hslow, r, hpush, rfl⟩ := Machine.enqueue_accepted ht
  · exact ⟨_, enqueue_of_fastPath ((hR.fastPath_eq h p).trans hfast), hR.stage h p v⟩
  · obtain ⟨r', hpush', h'⟩ := hR.push h hpush
    exact ⟨_, enqueue_of_push ((hR.fastPath_eq h p).trans hslow) hpush', by simpa using hR.notify h' p true⟩

theorem RespectsParts.enqueue_bufferFull (hR : RespectsParts R) (h : R s s') (ht : enqueue p v s = .bufferFull) :
    enqueue p v s' = .bufferFull := by
  unfold enqueue at ht ⊢
  rw [hR.fastPath_eq h]
  split at ht
  · cases ht
  · next hslow =>
    split at ht
    · cases ht
    · next hfull => rw [if_neg hslow, hR.bufferFull h hfull]
    · cases ht

theorem RespectsParts.dequeue_next (hR : RespectsParts R) (h : R s s') (ht : dequeue p s = .next t) :
    ∃ t', dequeue p s' = .next t' ∧ R t t' := by
  obtain ⟨v, r, hpop, rfl⟩ | ⟨hempty, rfl⟩ := Machine.dequeue_next ht
  · obtain ⟨r', hpop', h'⟩ := hR.pop h hpop
    exact ⟨_, by simp only [dequeue, hpop', respond], hR.emit h' _⟩
  · exact ⟨_, by simp only [dequeue, hR.bufferEmpty h hempty, raiseStatus, respond], hR.emit h _⟩

theorem RespectsParts.harvest_ok (hR : RespectsParts R) {keep : Bool} (h : R s s') (ht : harvest p keep v s = .ok t) :
    ∃ t', harvest p keep v s' = .ok t' ∧ R t t' := by
  obtain ⟨rfl, r, hpush, rfl⟩ | ⟨rfl | hfull, rfl⟩ := Machine.harvest_ok ht
  · obtain ⟨r', hpush', h'⟩ := hR.push h hpush
    exact ⟨_, by simp only [harvest, hpush', if_true], h'⟩
  · exact ⟨s', rfl, h⟩
  · refine ⟨s', ?_, h⟩
    simp [harvest, hR.bufferFull h (rbPush_bufferFull.2 hfull)]

theorem RespectsParts.refill_ok (hR : RespectsParts R) (h : R s s') (ht : refill p s = .ok t) :
    ∃ t', refill p s' = .ok t' ∧ R t t' := by
  obtain ⟨v, r, hpop, rfl⟩ | ⟨hempty, rfl⟩ := Machine.refill_ok ht
  · obtain ⟨r', hpop', h'⟩ := hR.pop h hpop
    exact ⟨_, refill_of_pop hpop', by simpa [stageSlot] using hR.notify (hR.stage h' p v) p true⟩
  · exact ⟨_, by simp only [refill, hR.bufferEmpty h hempty], hR.idle h p⟩

theorem RespectsParts.fireHook (hR : RespectsParts R) (h : R s s') (p : Peripheral) :
    R (fireHook p s) (fireHook p s') := by
  unfold Machine.fireHook
  rw [hR.hooked h]
  split
  · exact hR.emit h _
  · exact h

theorem RespectsParts.finishExchange_next (hR : RespectsParts R) {keep : Bool} (h : R s s')
    (ht : finishExchange p keep v s = .next t) : ∃ t', finishExchange p keep v s' = .next t' ∧ R t t' := by
  obtain ⟨a, b, hharvest, hrefill, rfl⟩ := Machine.finishExchange_next ht
  obtain ⟨a', hharvest', ha⟩ := hR.harvest_ok h hharvest
  obtain ⟨b', hrefill', hb⟩ := hR.refill_ok ha hrefill
  exact ⟨_, by simp only [finishExchange, hharvest', hrefill'], hR.fireHook hb p⟩

/-! ### The wire records -/

theorem RespectsParts.emitSent (hR : RespectsParts R) (h : R s s') (hl : (s.driver p).loaded = true) :
    R (emitSent p s) (emitSent p s') := by
  unfold Machine.emitSent
  rw [hR.slot h p hl]
  exact hR.emit h _

theorem RespectsParts.recordSentU (hR : RespectsParts R) (h : R s s') : R (recordSentU s) (recordSentU s') := by
  have hloaded : s'.uart.loaded = s.uart.loaded := hR.loaded h .uart
  unfold Machine.recordSentU
  rw [hloaded]
  split
  · next hl => exact hR.emitSent h hl
  · exact h

theorem RespectsParts.recordSentS (hR : RespectsParts R) (h : R s s') : R (recordSentS s) (recordSentS s') := by
  have hloaded : s'.spi.loaded = s.spi.loaded := hR.loaded h .spi
  unfold Machine.recordSentS
  rw [hloaded]
  split
  · next hl => exact hR.emitSent h hl
  · exact hR.drawn h

/-- The wire record leaves the vector and the configuration, and so the decision, alone. -/
theorem sfConsume_recordSentS (s : State) :
    sfConsume (recordSentS s).cfg.idleKeep (recordSentS s).skip = sfConsume s.cfg.idleKeep s.skip := by
  obtain ⟨o, n, hsent⟩ := recordSentS_cases s
  rw [hsent]
  rfl

/-! ### Every operation -/

/-- Related states stay related under RST (R104). -/
theorem RespectsParts.resetDriverOf (hR : RespectsParts R) (h : R s s') (c : Channel) :
    R (resetDriverOf c (s.setRing c (rbReset (s.ring c)))) (resetDriverOf c (s'.setRing c (rbReset (s'.ring c)))) := by
  have h' := hR.reset h c
  cases c with
  | uartRx => exact h'
  | uartTx => exact hR.idle h' .uart
  | spiRx => exact h'
  | spiTx => exact hR.forget (hR.idle h' .spi)

/-- From related states, an operation that completes from one completes from the other, in related states. -/
theorem RespectsParts.exec_related (hR : RespectsParts R) {i : Instr} (h : R s s') (ht : exec i s = .next t) :
    ∃ t', exec i s' = .next t' ∧ R t t' := by
  cases i with
  | enqU value =>
    obtain ⟨u, henq, rfl⟩ | ⟨hfull, rfl⟩ := execEnqU_next ht
    · obtain ⟨u', henq', hu⟩ := hR.enqueue_accepted h henq
      exact ⟨_, by simp only [exec, execEnqU, henq', respond], hR.emit hu _⟩
    · exact ⟨_, by simp only [exec, execEnqU, hR.enqueue_bufferFull h hfull, raiseStatus, respond], hR.emit h _⟩
  | enqS value keep =>
    obtain ⟨u, f, henq, hrec, rfl⟩ | ⟨hfull, rfl⟩ := execEnqS_next ht
    · obtain ⟨u', henq', hu⟩ := hR.enqueue_accepted h henq
      obtain ⟨f', hrec', hf⟩ := hR.record hu hrec
      exact ⟨_, by simp only [exec, execEnqS, henq', hrec', respond], hR.emit hf _⟩
    · exact ⟨_, by simp only [exec, execEnqS, hR.enqueue_bufferFull h hfull, raiseStatus, respond], hR.emit h _⟩
  | deqU => exact hR.dequeue_next h ht
  | deqS => exact hR.dequeue_next h ht
  | rst c =>
    obtain rfl := respond_next ht
    exact ⟨_, rfl, hR.emit (hR.resetDriverOf h c) _⟩
  | empty c =>
    obtain rfl := respond_next ht
    exact ⟨_, by simp only [exec, execEmpty, rbEmpty, hR.cnt h, respond], hR.emit h _⟩
  | full c =>
    obtain rfl := respond_next ht
    exact ⟨_, by simp only [exec, execFull, rbFull, hR.cnt h, hR.cfg h, respond], hR.emit h _⟩
  | hookset p =>
    obtain rfl := respond_next ht
    exact ⟨_, rfl, hR.emit (hR.hook h p true) _⟩
  | hookclr p =>
    obtain rfl := respond_next ht
    exact ⟨_, rfl, hR.emit (hR.hook h p false) _⟩
  | xchgU rx => exact hR.finishExchange_next (hR.recordSentU h) ht
  | xchgS rx =>
    have hsent := hR.consume (hR.recordSentS h)
    rw [sfConsume_recordSentS, sfConsume_recordSentS] at hsent
    obtain ⟨t', ht', hend⟩ := hR.finishExchange_next hsent ht
    refine ⟨t', ?_, hend⟩
    rw [← hR.decision h] at ht'
    exact ht'

end Sys2Proof.Machine
end

section
/-!
PROOFS. `notify[p]` is read by no operation (10_state.md R26, 43_exchange_driver.md R128): states that differ in it alone stay so.
-/
namespace Sys2Proof.Machine

/-- `s'` is `s` with some value in `notify[p]`. -/
def SameButNotify (p : Peripheral) (s s' : State) : Prop :=
  ∃ b, s' = s.setDriver p { s.driver p with notify := b }

/-- No part of an operation reads `notify[p]`; the last writer of it wins on both sides. -/
theorem sameButNotify_respectsParts (p : Peripheral) : RespectsParts (SameButNotify p) where
  cfg := by rintro s _ ⟨b, rfl⟩; simp
  cnt := by rintro s _ ⟨b, rfl⟩ c; simp
  loaded := by rintro s _ ⟨b, rfl⟩ q; cases p <;> cases q <;> rfl
  slot := by rintro s _ ⟨b, rfl⟩ q -; cases p <;> cases q <;> rfl
  hooked := by rintro s _ ⟨b, rfl⟩ q; cases p <;> cases q <;> rfl
  emit := by rintro s _ ⟨b, rfl⟩ o; exact ⟨b, by cases p <;> rfl⟩
  drawn := by rintro s _ ⟨b, rfl⟩; exact ⟨b, by cases p <;> rfl⟩
  push := by
    rintro s _ ⟨b, rfl⟩ c v r hpush
    exact ⟨r, by simpa using hpush, b, by cases p <;> cases c <;> rfl⟩
  pop := by
    rintro s _ ⟨b, rfl⟩ c v r hpop
    exact ⟨r, by simpa using hpop, b, by cases p <;> cases c <;> rfl⟩
  reset := by rintro s _ ⟨b, rfl⟩ c; exact ⟨b, by cases p <;> cases c <;> rfl⟩
  stage := by rintro s _ ⟨b, rfl⟩ q v; exact ⟨b, by cases p <;> cases q <;> rfl⟩
  unload := by rintro s _ ⟨b, rfl⟩ q; exact ⟨b, by cases p <;> cases q <;> rfl⟩
  notify := by
    rintro s _ ⟨b, rfl⟩ q b'
    exact ⟨if q = p then b' else b, by cases p <;> cases q <;> rfl⟩
  hook := by rintro s _ ⟨b, rfl⟩ q b'; exact ⟨b, by cases p <;> cases q <;> rfl⟩
  record := by
    rintro s _ ⟨b, rfl⟩ keep f hrec
    exact ⟨f, by simpa using hrec, b, by cases p <;> rfl⟩
  decision := by rintro s _ ⟨b, rfl⟩; simp
  consume := by rintro s _ ⟨b, rfl⟩; exact ⟨b, by cases p <;> rfl⟩
  forget := by rintro s _ ⟨b, rfl⟩; exact ⟨b, by cases p <;> rfl⟩

/-- Settles O47: every operation keeps two states equal but for `notify[p]`. -/
theorem notifyIsOnlyAnOutput : Obligations.NotifyIsOnlyAnOutput := by
  intro i s t p b ht
  obtain ⟨_, ht', b', rfl⟩ := (sameButNotify_respectsParts p).exec_related ⟨b, rfl⟩ ht
  exact ⟨b', ht'⟩

end Sys2Proof.Machine
end

section
/-!
PROOFS. States with equal views are indistinguishable (10_state.md R45). The views fix every test and every value an operation uses; the
rest (indices, dead data, the register `vec`) only has to be aligned, which every operation keeps.
-/
namespace Sys2Proof.Machine

/-- Two states whose rings are aligned and whose views, channel by channel and driver by driver, are equal. -/
structure SameViews (s s' : State) : Prop where
  cfg : s'.cfg = s.cfg
  aligned : ∀ c, (s.ring c).Aligned s.cfg.N
  aligned' : ∀ c, (s'.ring c).Aligned s.cfg.N
  queue : ∀ c, (s'.ring c).queue s.cfg.N = (s.ring c).queue s.cfg.N
  view : ∀ p, (s'.driver p).view = (s.driver p).view
  decisions : s'.skip.decisions = s.skip.decisions
  out : s'.out = s.out
  schedule : s'.schedule = s.schedule
  draws : s'.draws = s.draws

variable {s s' t : State}

/-! ### From and to indistinguishable states -/

theorem SameViews.of_indistinguishable (hs : s.WF) (hs' : s'.WF) (h : s.Indistinguishable s') : SameViews s s' := by
  obtain ⟨hviews, hcfg, hout, hschedule, hdraws⟩ := h
  have hring := fun c => ((wf_iff.1 hs).1.ring c).aligned
  have hring' := fun c => ((wf_iff.1 hs').1.ring c).aligned
  simp only [State.observables, State.queue, ← hcfg, Observables.mk.injEq] at hviews
  obtain ⟨huartRx, huartTx, hspiRx, hspiTx, hdecisions, huart, hspi⟩ := hviews
  exact {
    cfg := hcfg.symm
    aligned := hring
    aligned' := by simpa only [hcfg] using hring'
    queue := fun c => by cases c <;> symm <;> assumption
    view := fun p => by cases p <;> symm <;> assumption
    decisions := hdecisions.symm
    out := hout.symm
    schedule := hschedule.symm
    draws := hdraws.symm }

theorem SameViews.indistinguishable (h : SameViews s s') : s.Indistinguishable s' := by
  refine ⟨?_, h.cfg.symm, h.out.symm, h.schedule.symm, h.draws.symm⟩
  simp only [State.observables, State.queue, h.cfg, h.queue, h.decisions, Observables.mk.injEq, true_and]
  exact ⟨(h.view .uart).symm, (h.view .spi).symm⟩

/-! ### What the views fix -/

/-- Equal views of a driver: the same flags, and the same slot while it is loaded. -/
theorem view_eq_iff {d e : Driver} : e.view = d.view ↔
    e.loaded = d.loaded ∧ (d.loaded = true → e.slot = d.slot) ∧ e.notify = d.notify ∧ e.hook = d.hook := by
  cases hd : d.loaded <;> cases he : e.loaded <;> simp [Driver.view, hd, he]

theorem SameViews.cnt (h : SameViews s s') (c : Channel) : (s'.ring c).cnt = (s.ring c).cnt := by
  rw [← (h.aligned' c).length_queue, ← (h.aligned c).length_queue, h.queue]

theorem SameViews.pos (h : SameViews s s') : s'.skip.pos = s.skip.pos := by
  rw [← length_decisions, ← length_decisions, h.decisions]

/-- SF.CONSUME answers the same decision and leaves the same ones, whatever the bits at and above `pos` are. -/
theorem consume_of_decisions_eq (idleKeep : Bool) {f g : SkipFlags} (h : g.decisions = f.decisions) :
    (sfConsume idleKeep g).1 = (sfConsume idleKeep f).1 ∧
    (sfConsume idleKeep g).2.decisions = (sfConsume idleKeep f).2.decisions := by
  have hpos : g.pos = f.pos := by rw [← length_decisions, ← length_decisions, h]
  by_cases hf : f.pos = 0
  · have hg := hpos.trans hf
    simp [sfConsume_idle hf, sfConsume_idle hg, h]
  · have hg : g.pos ≠ 0 := by rwa [hpos]
    have hcons := h
    rw [decisions_consume idleKeep hf, decisions_consume idleKeep hg] at hcons
    exact List.cons.inj hcons

/-! ### Parts of the state that can be replaced -/

theorem SameViews.setRing (h : SameViews s s') (c : Channel) {r r' : Ring} (hr : r.Aligned s.cfg.N) (hr' : r'.Aligned s.cfg.N)
    (hq : r'.queue s.cfg.N = r.queue s.cfg.N) : SameViews (s.setRing c r) (s'.setRing c r') := by
  have hother : ∀ e, ((s.setRing c r).ring e).Aligned s.cfg.N ∧ ((s'.setRing c r').ring e).Aligned s.cfg.N ∧
      ((s'.setRing c r').ring e).queue s.cfg.N = ((s.setRing c r).ring e).queue s.cfg.N := by
    intro e
    by_cases he : e = c
    · subst he; simpa using ⟨hr, hr', hq⟩
    · simpa [State.setRing_ring_of_ne he] using ⟨h.aligned e, h.aligned' e, h.queue e⟩
  exact {
    cfg := by simpa using h.cfg
    aligned := fun e => by simpa using (hother e).1
    aligned' := fun e => by simpa using (hother e).2.1
    queue := fun e => by simpa using (hother e).2.2
    view := by simpa using h.view
    decisions := by simpa using h.decisions
    out := by simpa using h.out
    schedule := by simpa using h.schedule
    draws := by simpa using h.draws }

theorem SameViews.setDriver (h : SameViews s s') (p : Peripheral) {d d' : Driver} (hd : d'.view = d.view) :
    SameViews (s.setDriver p d) (s'.setDriver p d') := by
  have hview : ∀ q, ((s'.setDriver p d').driver q).view = ((s.setDriver p d).driver q).view := by
    intro q
    by_cases hq : q = p
    · subst hq; simpa using hd
    · simpa [State.setDriver_driver_of_ne hq] using h.view q
  exact {
    cfg := by simpa using h.cfg
    aligned := by simpa using h.aligned
    aligned' := by simpa using h.aligned'
    queue := by simpa using h.queue
    view := hview
    decisions := by simpa using h.decisions
    out := by simpa using h.out
    schedule := by simpa using h.schedule
    draws := by simpa using h.draws }

theorem SameViews.setSkip (h : SameViews s s') {f f' : SkipFlags} (hf : f'.decisions = f.decisions) :
    SameViews (s.setSkip f) (s'.setSkip f') :=
  { h with decisions := hf }

theorem SameViews.emit (h : SameViews s s') (o : Output) : SameViews (s.emit o) (s'.emit o) :=
  { h with out := congrArg (· ++ [o]) h.out }

theorem SameViews.setSchedule (h : SameViews s s') (q : List Period) : SameViews (s.setSchedule q) (s'.setSchedule q) :=
  { h with schedule := rfl }

/-! ### Every operation -/

/-- A push onto rings with equal queues succeeds on both sides, and the queues stay equal. -/
theorem SameViews.push (h : SameViews s s') {c : Channel} {v : Element} {r : Ring}
    (hpush : rbPush s.cfg.N c v (s.ring c) = .ok r) :
    ∃ r', rbPush s'.cfg.N c v (s'.ring c) = .ok r' ∧ SameViews (s.setRing c r) (s'.setRing c r') := by
  have hroom : (s'.ring c).cnt ≠ s.cfg.N := by rw [h.cnt]; exact (rbPush_ok hpush).1
  have hpush' := (h.aligned' c).push_eq (ch := c) (v := v) hroom
  refine ⟨_, h.cfg ▸ hpush', h.setRing c ((h.aligned c).push hpush) ((h.aligned' c).push hpush') ?_⟩
  rw [(h.aligned c).queue_push hpush, (h.aligned' c).queue_push hpush', h.queue]

/-- A pop from rings with equal queues returns the same element on both sides, and the queues stay equal. -/
theorem SameViews.pop (h : SameViews s s') {c : Channel} {v : Element} {r : Ring}
    (hpop : rbPop s.cfg.N c (s.ring c) = .ok v r) :
    ∃ r', rbPop s'.cfg.N c (s'.ring c) = .ok v r' ∧ SameViews (s.setRing c r) (s'.setRing c r') := by
  have hcnt : (s'.ring c).cnt ≠ 0 := by rw [h.cnt]; exact (rbPop_ok hpop).1
  obtain ⟨w, r', hpop'⟩ := (h.aligned' c).exists_pop (ch := c) hcnt
  have hqueue := h.queue c
  rw [queue_pop hpop, queue_pop hpop'] at hqueue
  obtain ⟨rfl, htail⟩ := List.cons.inj hqueue
  exact ⟨r', h.cfg ▸ hpop', h.setRing c ((h.aligned c).pop hpop) ((h.aligned' c).pop hpop') htail⟩

/-- Recording the same decision on both sides keeps the pending decisions equal. -/
theorem SameViews.record (h : SameViews s s') {keep : Bool} {f : SkipFlags} (hrec : sfRecord s.cfg.V keep s.skip = .ok f) :
    ∃ f', sfRecord s'.cfg.V keep s'.skip = .ok f' ∧ SameViews (s.setSkip f) (s'.setSkip f') := by
  have hroom : s'.skip.pos < s'.cfg.V := by rw [h.pos, h.cfg]; exact (sfRecord_ok hrec).1
  have hrec' := sfRecord_of_pos_lt (keep := keep) hroom
  refine ⟨_, hrec', h.setSkip ?_⟩
  rw [decisions_record hrec, decisions_record hrec', h.decisions]

/-- Equal views are respected by every part of an operation. -/
theorem sameViews_respectsParts : RespectsParts SameViews where
  cfg := SameViews.cfg
  cnt := SameViews.cnt
  loaded h p := (view_eq_iff.1 (h.view p)).1
  slot h p := (view_eq_iff.1 (h.view p)).2.1
  hooked h p := (view_eq_iff.1 (h.view p)).2.2.2
  emit := SameViews.emit
  drawn {s s'} h :=
    have hvalue : drawElement s'.cfg.W s'.draws = drawElement s.cfg.W s.draws := by rw [h.cfg, h.draws]
    { h with
      out := by simp only [emitDrawn, State.emit_out, hvalue, h.out]
      draws := congrArg (· + 1) h.draws }
  push := SameViews.push
  pop := SameViews.pop
  reset h c :=
    have hN := Nat.zero_lt_of_lt (h.aligned c).rd_lt
    h.setRing c (rbReset_aligned _ hN) (rbReset_aligned _ hN) rfl
  stage h p v := h.setDriver p (by simpa [view_eq_iff] using (view_eq_iff.1 (h.view p)).2.2)
  unload h p := h.setDriver p (by simpa [view_eq_iff] using (view_eq_iff.1 (h.view p)).2.2)
  notify h p b := h.setDriver p (by
    obtain ⟨hloaded, hslot, -, hhook⟩ := view_eq_iff.1 (h.view p)
    exact view_eq_iff.2 ⟨hloaded, hslot, rfl, hhook⟩)
  hook h p b := h.setDriver p (by
    obtain ⟨hloaded, hslot, hnotify, -⟩ := view_eq_iff.1 (h.view p)
    exact view_eq_iff.2 ⟨hloaded, hslot, hnotify, rfl⟩)
  record := SameViews.record
  decision h := by rw [h.cfg]; exact (consume_of_decisions_eq _ h.decisions).1
  consume h := h.setSkip (by rw [h.cfg]; exact (consume_of_decisions_eq _ h.decisions).2)
  forget h := h.setSkip rfl

/-! ### Steps and runs -/

/-- The same word fetched in another state. -/
def Fetched.inState (s : State) : Fetched → Fetched
  | .idle => .idle
  | .reset u => .reset (s.setSchedule u.schedule)
  | .run i u => .run i (s.setSchedule u.schedule)
  | .illegal u => .illegal (s.setSchedule u.schedule)
  | .malformed x => .malformed x

/-- What is fetched depends on the configuration and the schedule only. -/
theorem fetch_inState (hcfg : s'.cfg = s.cfg) (hschedule : s'.schedule = s.schedule) : fetch s' = (fetch s).inState s' := by
  simp only [fetch, hcfg, hschedule]
  cases (takeNext s.schedule).1 with
  | nothing => rfl
  | reset => rfl
  | event p x => cases hd : decodeStrobe s.cfg.W p x <;> simp [Fetched.inState, hd]
  | command x => cases hd : decodeCommand s.cfg.W x <;> simp [Fetched.inState, hd]

/-- Power-on reset leaves equal views: the slots hold the same free values. -/
theorem SameViews.powerOnReset (h : SameViews s s') (hN : 0 < s.cfg.N) :
    SameViews (powerOnReset s) (powerOnReset s') := by
  have hring : ∀ u c, (Machine.powerOnReset u).ring c = Ring.reset := fun u c => by cases c <;> rfl
  have haligned := Ring.reset_aligned hN
  exact {
    cfg := h.cfg
    aligned := fun c => by rw [hring]; exact haligned
    aligned' := fun c => by rw [hring]; exact haligned
    queue := fun c => by rw [hring, hring]
    view := fun p => by cases p <;> rfl
    decisions := rfl
    out := h.out
    schedule := h.schedule
    draws := congrArg (· + 2) h.draws }

/-- A step that completes from one of two states with equal views completes from the other, with equal views. -/
theorem SameViews.step (h : SameViews s s') (ht : step s = .next t) : ∃ t', step s' = .next t' ∧ SameViews t t' := by
  obtain ⟨hcfg, hcases⟩ := step_next ht
  have hstep := step_of_fetch (s := s') (h.cfg ▸ hcfg)
  rw [fetch_inState h.cfg h.schedule] at hstep
  obtain ⟨hfetch, rfl⟩ | ⟨u, hfetch, rfl⟩ | ⟨i, u, hfetch, hexec⟩ | ⟨u, hfetch, rfl⟩ := hcases <;> rw [hfetch] at hstep
  · exact ⟨s', hstep, h⟩
  · obtain rfl := fetch_reset hfetch
    exact ⟨_, hstep, (h.setSchedule _).powerOnReset hcfg.1⟩
  · obtain ⟨rfl, -⟩ := fetch_run hfetch
    obtain ⟨t', ht', hviews⟩ := sameViews_respectsParts.exec_related (h.setSchedule _) hexec
    exact ⟨t', hstep.trans ht', hviews⟩
  · obtain rfl := fetch_illegal hfetch
    exact ⟨_, hstep, (h.setSchedule _).emit _⟩

/-- A run of `k + 1` steps that completes is one step and a run of `k`. -/
theorem run_succ_eq_next {k : Nat} : Host.Core.run core (k + 1) s = .next t ↔
    ∃ u, Host.Core.step core s = .next u ∧ Host.Core.run core k u = .next t := by
  simp only [Host.Core.run]
  cases Host.Core.step core s <;> simp

theorem SameViews.run {k : Nat} (h : SameViews s s') (ht : Host.Core.run core k s = .next t) :
    ∃ t', Host.Core.run core k s' = .next t' ∧ SameViews t t' := by
  induction k generalizing s s' with
  | zero =>
    obtain rfl : s = t := Host.Outcome.next.inj ht
    exact ⟨s', rfl, h⟩
  | succ k ih =>
    obtain ⟨u, hu, hrest⟩ := run_succ_eq_next.1 ht
    obtain ⟨u', hu', hviews⟩ := h.step hu
    obtain ⟨t', hrest', hend⟩ := ih hviews hrest
    exact ⟨t', run_succ_eq_next.2 ⟨u', hu', hrest'⟩, hend⟩

/-- Settles O53: equal views are kept by runs of any length. -/
theorem equalViewsAreIndistinguishable : Obligations.EqualViewsAreIndistinguishable := by
  intro k s s' t hs hs' h ht
  obtain ⟨t', ht', hviews⟩ := (SameViews.of_indistinguishable hs hs' h).run ht
  exact ⟨t', ht', hviews.indistinguishable⟩

end Sys2Proof.Machine
end
section
/-!
PROOFS. Who writes what (10_state.md R43, 20_memory.md R55): the two columns of the table as relations between the state before and after,
kept by each part of an operation, for every state.
-/
namespace Sys2Proof.Machine

/-- What the handler may do to peripheral `p` and to the vector (R43): take from the TX ring, add to the RX ring, consume decisions. -/
structure HandlerWrites (p : Peripheral) (s t : State) : Prop where
  txBuf : (t.ring (txOf p)).buf = (s.ring (txOf p)).buf
  txWr : (t.ring (txOf p)).wr = (s.ring (txOf p)).wr
  rxRd : (t.ring (rxOf p)).rd = (s.ring (rxOf p)).rd
  hook : (t.driver p).hook = (s.driver p).hook
  txCnt : (t.ring (txOf p)).cnt ≤ (s.ring (txOf p)).cnt
  rxCnt : (s.ring (rxOf p)).cnt ≤ (t.ring (rxOf p)).cnt
  pos : t.skip.pos ≤ s.skip.pos

/-- What the foreground may do to peripheral `p` and to the vector, but for RST and the hook (R43): add to the TX ring, take from the
RX ring, record decisions, fill a slot that is not loaded. -/
structure ForegroundWrites (p : Peripheral) (s t : State) : Prop where
  txRd : (t.ring (txOf p)).rd = (s.ring (txOf p)).rd
  txCnt : (s.ring (txOf p)).cnt ≤ (t.ring (txOf p)).cnt
  staged : (s.driver p).loaded = true → (t.driver p).loaded = true ∧ (t.driver p).slot = (s.driver p).slot
  rxBuf : (t.ring (rxOf p)).buf = (s.ring (rxOf p)).buf
  rxWr : (t.ring (rxOf p)).wr = (s.ring (rxOf p)).wr
  rxCnt : (t.ring (rxOf p)).cnt ≤ (s.ring (rxOf p)).cnt
  pos : s.skip.pos ≤ t.skip.pos

variable {s t u : State} {p q : Peripheral} {r : Ring} {d : Driver} {v : Element}

theorem txOf_ne_rxOf (p q : Peripheral) : txOf p ≠ rxOf q := by cases p <;> cases q <;> decide

theorem txOf_injective : Function.Injective txOf := by intro p q; cases p <;> cases q <;> simp

theorem rxOf_injective : Function.Injective rxOf := by intro p q; cases p <;> cases q <;> simp

/-! ### The handler's side -/

theorem HandlerWrites.refl (p : Peripheral) (s : State) : HandlerWrites p s s :=
  ⟨rfl, rfl, rfl, rfl, le_rfl, le_rfl, le_rfl⟩

theorem HandlerWrites.trans (h : HandlerWrites p s t) (h' : HandlerWrites p t u) : HandlerWrites p s u :=
  ⟨h'.txBuf.trans h.txBuf, h'.txWr.trans h.txWr, h'.rxRd.trans h.rxRd, h'.hook.trans h.hook, h'.txCnt.trans h.txCnt,
    h.rxCnt.trans h'.rxCnt, h'.pos.trans h.pos⟩

/-- What touches neither the rings nor the drivers, and records no decision. -/
theorem HandlerWrites.of_frame (hring : t.ring = s.ring) (hdriver : t.driver = s.driver) (hpos : t.skip.pos ≤ s.skip.pos) :
    HandlerWrites p s t :=
  ⟨by rw [hring], by rw [hring], by rw [hring], by rw [hdriver], by rw [hring], by rw [hring], hpos⟩

theorem HandlerWrites.emit (s : State) (o : Output) : HandlerWrites p s (s.emit o) :=
  .of_frame (funext (State.emit_ring s · o)) (funext (State.emit_driver s · o)) le_rfl

/-- A new RX ring of `q` with the read index as it was. -/
theorem HandlerWrites.setRx (hrd : r.rd = (s.ring (rxOf q)).rd) (hcnt : (s.ring (rxOf q)).cnt ≤ r.cnt) :
    HandlerWrites p s (s.setRing (rxOf q) r) := by
  have htx := State.setRing_ring_of_ne (s := s) (r := r) (txOf_ne_rxOf p q)
  by_cases hp : p = q
  · subst hp
    constructor <;> simp [htx, hrd, hcnt]
  · have hrx := State.setRing_ring_of_ne (s := s) (r := r) (rxOf_injective.ne hp)
    constructor <;> simp [htx, hrx]

/-- A new TX ring and driver of `q` with the array, the write index and the hook as they were. -/
theorem HandlerWrites.setTx (hbuf : r.buf = (s.ring (txOf q)).buf) (hwr : r.wr = (s.ring (txOf q)).wr)
    (hcnt : r.cnt ≤ (s.ring (txOf q)).cnt) (hhook : d.hook = (s.driver q).hook) :
    HandlerWrites p s ((s.setRing (txOf q) r).setDriver q d) := by
  have hrx := State.setRing_ring_of_ne (s := s) (r := r) (txOf_ne_rxOf q p).symm
  by_cases hp : p = q
  · subst hp
    constructor <;> simp [hrx, hbuf, hwr, hcnt, hhook]
  · have htx := State.setRing_ring_of_ne (s := s) (r := r) (txOf_injective.ne hp)
    constructor <;> simp [hrx, htx, State.setDriver_driver_of_ne hp]

@[simp] theorem State.setRing_self (s : State) (c : Channel) : s.setRing c (s.ring c) = s := by cases c <;> rfl

theorem harvest_handlerWrites {keep : Bool} (h : harvest q keep v s = .ok t) : HandlerWrites p s t := by
  obtain ⟨-, r, hpush, rfl⟩ | ⟨-, rfl⟩ := harvest_ok h
  · obtain ⟨-, -, rfl⟩ := rbPush_ok hpush
    exact .setRx rfl (Nat.le_succ _)
  · exact .refl p _

theorem refill_handlerWrites (h : refill q s = .ok t) : HandlerWrites p s t := by
  obtain ⟨v, r, hpop, rfl⟩ | ⟨-, rfl⟩ := refill_ok h
  · obtain ⟨-, -, -, rfl⟩ := rbPop_ok hpop
    exact .setTx rfl rfl (Nat.sub_le _ _) rfl
  · have hsame := HandlerWrites.setTx (p := p) (q := q) (s := s) (r := s.ring (txOf q))
      (d := { s.driver q with loaded := false, notify := false }) rfl rfl le_rfl rfl
    rwa [State.setRing_self] at hsame

theorem finishExchange_handlerWrites {keep : Bool} (h : finishExchange q keep v s = .next t) : HandlerWrites p s t := by
  obtain ⟨a, b, hharvest, hrefill, rfl⟩ := finishExchange_next h
  have hb := (harvest_handlerWrites (p := p) hharvest).trans (refill_handlerWrites hrefill)
  obtain hhook | ⟨o, hhook⟩ := fireHook_cases q b <;> rw [hhook]
  · exact hb
  · exact hb.trans (.emit b o)

/-- An event keeps to the handler's column. -/
theorem event_handlerWrites {i : Instr} (hi : eventOf i ≠ none) (h : exec i s = .next t) : HandlerWrites p s t := by
  cases i with
  | xchgU rx =>
    refine HandlerWrites.trans ?_ (finishExchange_handlerWrites ((execXchgU_eq rx s).symm.trans h))
    obtain hsent | ⟨o, hsent⟩ := recordSentU_cases s <;> rw [hsent]
    · exact .refl p s
    · exact .emit s o
  | xchgS rx =>
    refine HandlerWrites.trans ?_ (finishExchange_handlerWrites ((execXchgS_eq rx s).symm.trans h))
    obtain ⟨o, n, hsent⟩ := recordSentS_cases s
    rw [hsent]
    refine .of_frame (funext fun c => by cases c <;> rfl) (funext fun e => by cases e <;> rfl) ?_
    rw [State.setSkip_skip, consume_pos]
    exact Nat.sub_le _ _
  | enqU _ | enqS _ _ | deqU | deqS | rst _ | empty _ | full _ | hookset _ | hookclr _ => exact absurd rfl hi

/-! ### The foreground's side -/

theorem ForegroundWrites.trans (h : ForegroundWrites p s t) (h' : ForegroundWrites p t u) : ForegroundWrites p s u where
  txRd := h'.txRd.trans h.txRd
  txCnt := h.txCnt.trans h'.txCnt
  staged hl := by
    obtain ⟨hloaded, hslot⟩ := h.staged hl
    obtain ⟨hloaded', hslot'⟩ := h'.staged hloaded
    exact ⟨hloaded', hslot'.trans hslot⟩
  rxBuf := h'.rxBuf.trans h.rxBuf
  rxWr := h'.rxWr.trans h.rxWr
  rxCnt := h'.rxCnt.trans h.rxCnt
  pos := h.pos.trans h'.pos

/-- What touches neither the rings nor the drivers, and consumes no decision. -/
theorem ForegroundWrites.of_frame (hring : t.ring = s.ring) (hdriver : t.driver = s.driver) (hpos : s.skip.pos ≤ t.skip.pos) :
    ForegroundWrites p s t :=
  ⟨by rw [hring], by rw [hring], by rw [hdriver]; exact fun hl => ⟨hl, rfl⟩, by rw [hring], by rw [hring], by rw [hring], hpos⟩

theorem ForegroundWrites.emit (s : State) (o : Output) : ForegroundWrites p s (s.emit o) :=
  .of_frame (funext (State.emit_ring s · o)) (funext (State.emit_driver s · o)) le_rfl

theorem ForegroundWrites.setSkip (s : State) {f : SkipFlags} (hf : s.skip.pos ≤ f.pos) : ForegroundWrites p s (s.setSkip f) :=
  .of_frame (funext (State.setSkip_ring s · f)) (funext (State.setSkip_driver s · f)) hf

/-- A new RX ring of `q` with the array and the write index as they were. -/
theorem ForegroundWrites.setRx (hbuf : r.buf = (s.ring (rxOf q)).buf) (hwr : r.wr = (s.ring (rxOf q)).wr)
    (hcnt : r.cnt ≤ (s.ring (rxOf q)).cnt) : ForegroundWrites p s (s.setRing (rxOf q) r) := by
  have htx := State.setRing_ring_of_ne (s := s) (r := r) (txOf_ne_rxOf p q)
  by_cases hp : p = q
  · subst hp
    constructor <;> simp [htx, hbuf, hwr, hcnt]
  · have hrx := State.setRing_ring_of_ne (s := s) (r := r) (rxOf_injective.ne hp)
    constructor <;> simp [htx, hrx]

/-- A new TX ring and driver of `q` with the read index and a loaded slot as they were. -/
theorem ForegroundWrites.setTx (hrd : r.rd = (s.ring (txOf q)).rd) (hcnt : (s.ring (txOf q)).cnt ≤ r.cnt)
    (hstaged : (s.driver q).loaded = true → d.loaded = true ∧ d.slot = (s.driver q).slot) :
    ForegroundWrites p s ((s.setRing (txOf q) r).setDriver q d) := by
  have hrx := State.setRing_ring_of_ne (s := s) (r := r) (txOf_ne_rxOf q p).symm
  by_cases hp : p = q
  · subst hp
    constructor
    case staged => simpa using hstaged
    all_goals simp [hrx, hrd, hcnt]
  · have htx := State.setRing_ring_of_ne (s := s) (r := r) (txOf_injective.ne hp)
    constructor <;> simp [hrx, htx, State.setDriver_driver_of_ne hp]

/-- A new driver of `q` with a loaded slot as it was. -/
theorem ForegroundWrites.setDriver (hstaged : (s.driver q).loaded = true → d.loaded = true ∧ d.slot = (s.driver q).slot) :
    ForegroundWrites p s (s.setDriver q d) := by
  have hsame := setTx (p := p) (r := s.ring (txOf q)) rfl le_rfl hstaged
  rwa [State.setRing_self] at hsame

/-- The fast path is taken only when nothing is loaded, and the slow path leaves the slot alone. -/
theorem enqueue_foregroundWrites (h : enqueue q v s = .accepted t) : ForegroundWrites p s t := by
  obtain ⟨hfast, rfl⟩ | ⟨-, r, hpush, rfl⟩ := enqueue_accepted h
  · have hempty : (s.driver q).loaded = false := by simp_all [fastPath]
    exact .setDriver fun hl => by simp [hempty] at hl
  · obtain ⟨-, -, rfl⟩ := rbPush_ok hpush
    exact .setTx rfl (Nat.le_succ _) fun hl => ⟨hl, rfl⟩

theorem dequeue_foregroundWrites (h : dequeue q s = .next t) : ForegroundWrites p s t := by
  obtain ⟨v, r, hpop, rfl⟩ | ⟨-, rfl⟩ := dequeue_next h
  · obtain ⟨-, -, -, rfl⟩ := rbPop_ok hpop
    refine ForegroundWrites.trans ?_ (.emit _ _)
    exact .setRx rfl rfl (Nat.sub_le _ _)
  · exact ForegroundWrites.emit s _

/-- A command other than RST keeps to the foreground's column. -/
theorem command_foregroundWrites {i : Instr} (hi : eventOf i = none) (hrst : ∀ c, i ≠ .rst c) (h : exec i s = .next t) :
    ForegroundWrites p s t := by
  cases i with
  | enqU value =>
    obtain ⟨u, henq, rfl⟩ | ⟨-, rfl⟩ := execEnqU_next h
    · exact (enqueue_foregroundWrites henq).trans (.emit u _)
    · exact ForegroundWrites.emit s _
  | enqS value keep =>
    obtain ⟨u, f, henq, hrec, rfl⟩ | ⟨-, rfl⟩ := execEnqS_next h
    · have hpos : u.skip.pos ≤ f.pos := by rw [record_pos hrec]; exact Nat.le_succ _
      exact ((enqueue_foregroundWrites henq).trans (.setSkip u hpos)).trans (.emit _ _)
    · exact ForegroundWrites.emit s _
  | deqU => exact dequeue_foregroundWrites h
  | deqS => exact dequeue_foregroundWrites h
  | rst c => exact absurd rfl (hrst c)
  | empty c => obtain rfl := respond_next h; exact ForegroundWrites.emit s _
  | full c => obtain rfl := respond_next h; exact ForegroundWrites.emit s _
  | hookset q =>
    obtain rfl := respond_next h
    refine ForegroundWrites.trans ?_ (.emit _ _)
    exact .setDriver fun hl => ⟨hl, rfl⟩
  | hookclr q =>
    obtain rfl := respond_next h
    refine ForegroundWrites.trans ?_ (.emit _ _)
    exact .setDriver fun hl => ⟨hl, rfl⟩
  | xchgU _ | xchgS _ => cases hi

/-! ### RST (R104) -/

theorem resetDriverOf_ring (c e : Channel) (s : State) : (resetDriverOf c s).ring e = s.ring e := by
  cases c <;> cases e <;> rfl

theorem resetDriverOf_driver {c : Channel} (h : c ≠ txOf p) (s : State) : (resetDriverOf c s).driver p = s.driver p := by
  revert h
  cases c <;> cases p <;> simp [resetDriverOf]

theorem resetDriverOf_skip {c : Channel} (h : c ≠ .spiTx) (s : State) : (resetDriverOf c s).skip = s.skip := by
  revert h
  cases c <;> simp [resetDriverOf]

theorem resetDriverOf_hook (c : Channel) (p : Peripheral) (s : State) :
    ((resetDriverOf c s).driver p).hook = (s.driver p).hook := by cases c <;> cases p <;> rfl

/-- RST of a channel leaves every other channel as it was. -/
theorem execRst_ring {c e : Channel} (he : e ≠ c) (h : execRst c s = .next t) : t.ring e = s.ring e := by
  obtain rfl := respond_next h
  rw [State.emit_ring, resetDriverOf_ring, State.setRing_ring_of_ne he]

/-- RST of another channel than `TX(p)` leaves the driver of `p` as it was. -/
theorem execRst_driver {c : Channel} (hc : c ≠ txOf p) (h : execRst c s = .next t) : t.driver p = s.driver p := by
  obtain rfl := respond_next h
  rw [State.emit_driver, resetDriverOf_driver hc, State.setRing_driver]

/-- RST of another channel than SPI_TX leaves the vector as it was. -/
theorem execRst_skip {c : Channel} (hc : c ≠ .spiTx) (h : execRst c s = .next t) : t.skip = s.skip := by
  obtain rfl := respond_next h
  rw [State.emit_skip, resetDriverOf_skip hc, State.setRing_skip]

/-! ### The hook -/

theorem enqueue_hook (h : enqueue q v s = .accepted t) (p : Peripheral) : (t.driver p).hook = (s.driver p).hook := by
  obtain ⟨-, rfl⟩ | ⟨-, r, -, rfl⟩ := enqueue_accepted h
  · cases p <;> cases q <;> rfl
  · cases p <;> cases q <;> rfl

theorem dequeue_hook (h : dequeue q s = .next t) (p : Peripheral) : (t.driver p).hook = (s.driver p).hook := by
  obtain ⟨v, r, -, rfl⟩ | ⟨-, rfl⟩ := dequeue_next h <;> simp

/-- Only HOOKSET and HOOKCLR of `p` change `hook[p]` (R27, R43). -/
theorem exec_hook {i : Instr} (hset : i ≠ .hookset p) (hclr : i ≠ .hookclr p) (h : exec i s = .next t) :
    (t.driver p).hook = (s.driver p).hook := by
  cases i with
  | enqU value =>
    obtain ⟨u, henq, rfl⟩ | ⟨-, rfl⟩ := execEnqU_next h
    · simpa using enqueue_hook henq p
    · simp
  | enqS value keep =>
    obtain ⟨u, f, henq, -, rfl⟩ | ⟨-, rfl⟩ := execEnqS_next h
    · simpa using enqueue_hook henq p
    · simp
  | deqU => exact dequeue_hook h p
  | deqS => exact dequeue_hook h p
  | rst c => obtain rfl := respond_next h; simp [resetDriverOf_hook]
  | empty c => obtain rfl := respond_next h; simp
  | full c => obtain rfl := respond_next h; simp
  | hookset q =>
    have hpq : p ≠ q := fun hpq => hset (hpq ▸ rfl)
    obtain rfl := respond_next h
    simp [State.setDriver_driver_of_ne hpq]
  | hookclr q =>
    have hpq : p ≠ q := fun hpq => hclr (hpq ▸ rfl)
    obtain rfl := respond_next h
    simp [State.setDriver_driver_of_ne hpq]
  | xchgU rx => exact (event_handlerWrites (by simp [eventOf]) h).hook
  | xchgS rx => exact (event_handlerWrites (by simp [eventOf]) h).hook

/-- Settles O45: events keep to the handler's column, commands to the foreground's, and RST of another channel touches nothing of the
one looked at. -/
theorem ownershipOfWrites : Obligations.OwnershipOfWrites := by
  intro i s t p h
  have hforeground := fun hi hrst => command_foregroundWrites (p := p) (i := i) hi hrst h
  refine ⟨fun hi => ?_, fun hi hne => ?_, fun hi hne => ?_, fun hi hne => ?_, fun hset hclr => exec_hook hset hclr h⟩
  · have hw := event_handlerWrites (p := p) hi h
    exact ⟨hw.txBuf, hw.txWr, hw.rxRd, hw.hook, hw.txCnt, hw.rxCnt, hw.pos⟩
  all_goals by_cases hrst : ∃ c, i = .rst c
  · obtain ⟨c, rfl⟩ := hrst
    have hc : c ≠ txOf p := fun hc => hne (hc ▸ rfl)
    rw [execRst_ring hc.symm h, execRst_driver hc h]
    exact ⟨rfl, le_rfl, fun hl => ⟨hl, rfl⟩⟩
  · have hw := hforeground hi (not_exists.1 hrst)
    exact ⟨hw.txRd, hw.txCnt, hw.staged⟩
  · obtain ⟨c, rfl⟩ := hrst
    have hc : c ≠ rxOf p := fun hc => hne (hc ▸ rfl)
    rw [execRst_ring hc.symm h]
    exact ⟨rfl, rfl, le_rfl⟩
  · have hw := hforeground hi (not_exists.1 hrst)
    exact ⟨hw.rxBuf, hw.rxWr, hw.rxCnt⟩
  · obtain ⟨c, rfl⟩ := hrst
    have hc : c ≠ .spiTx := fun hc => hne (hc ▸ rfl)
    rw [execRst_skip hc h]
  · exact (hforeground hi (not_exists.1 hrst)).pos

end Sys2Proof.Machine
end

section
/-!
PROOFS. Every operation completes from a well-formed state, and which ring buffers it writes: facts for the statements about sequences of
operations.
-/
namespace Sys2Proof.Machine

variable {s t u : State} {p q : Peripheral} {c : Channel} {cs : List Channel} {v : Element} {keep : Bool}

/-! ### Completion -/

theorem Ring.Aligned.push_cases {N : Nat} {r : Ring} (h : r.Aligned N) (c : Channel) (v : Element) :
    rbPush N c v r = .bufferFull ∨ ∃ r', rbPush N c v r = .ok r' := by
  by_cases hfull : r.cnt = N
  · exact .inl (rbPush_bufferFull.2 hfull)
  · exact .inr ⟨_, h.push_eq hfull⟩

theorem Ring.Aligned.pop_cases {N : Nat} {r : Ring} (h : r.Aligned N) (c : Channel) :
    rbPop N c r = .bufferEmpty ∨ ∃ v r', rbPop N c r = .ok v r' := by
  by_cases hempty : r.cnt = 0
  · exact .inl (rbPop_bufferEmpty.2 hempty)
  · exact .inr (h.exists_pop hempty)

theorem enqueue_cases (h : (s.ring (txOf p)).Aligned s.cfg.N) (v : Element) :
    enqueue p v s = .bufferFull ∨ ∃ t, enqueue p v s = .accepted t := by
  cases hfast : fastPath (s.driver p) (s.ring (txOf p)) with
  | true => exact .inr ⟨_, enqueue_of_fastPath hfast⟩
  | false =>
    obtain hpush | ⟨r, hpush⟩ := h.push_cases (txOf p) v
    · exact .inl (by simp [enqueue, hfast, hpush])
    · exact .inr ⟨_, enqueue_of_push hfast hpush⟩

theorem dequeue_completes (h : (s.ring (rxOf p)).Aligned s.cfg.N) : ∃ t, dequeue p s = .next t := by
  obtain hpop | ⟨v, r, hpop⟩ := h.pop_cases (rxOf p)
  · simp [dequeue, hpop, raiseStatus, respond]
  · simp [dequeue, hpop, respond]

theorem harvest_completes (h : (s.ring (rxOf p)).Aligned s.cfg.N) (keep : Bool) (rx : Element) :
    ∃ t, harvest p keep rx s = .ok t := by
  cases keep with
  | false => exact ⟨s, rfl⟩
  | true =>
    obtain hpush | ⟨r, hpush⟩ := h.push_cases (rxOf p) rx
    · exact ⟨s, by simp [harvest, hpush]⟩
    · simp [harvest, hpush]

theorem refill_completes (h : (s.ring (txOf p)).Aligned s.cfg.N) : ∃ t, refill p s = .ok t := by
  obtain hpop | ⟨v, r, hpop⟩ := h.pop_cases (txOf p)
  · simp [refill, hpop]
  · exact ⟨_, refill_of_pop hpop⟩

/-! ### Which ring buffers an operation writes -/

/-- The configuration and every ring buffer but the listed ones stay as they were. -/
structure KeepsRingsBut (cs : List Channel) (s t : State) : Prop where
  cfg : t.cfg = s.cfg
  ring : ∀ c, c ∉ cs → t.ring c = s.ring c

theorem KeepsRingsBut.refl (cs : List Channel) (s : State) : KeepsRingsBut cs s s := ⟨rfl, fun _ _ => rfl⟩

theorem KeepsRingsBut.trans (h : KeepsRingsBut cs s t) (h' : KeepsRingsBut cs t u) : KeepsRingsBut cs s u :=
  ⟨h'.cfg.trans h.cfg, fun c hc => (h'.ring c hc).trans (h.ring c hc)⟩

theorem KeepsRingsBut.emit (h : KeepsRingsBut cs s t) (o : Output) : KeepsRingsBut cs s (t.emit o) :=
  ⟨h.cfg, by simpa using h.ring⟩

theorem KeepsRingsBut.setDriver (h : KeepsRingsBut cs s t) (p : Peripheral) (d : Driver) :
    KeepsRingsBut cs s (t.setDriver p d) := ⟨by simpa using h.cfg, by simpa using h.ring⟩

theorem KeepsRingsBut.setSkip (h : KeepsRingsBut cs s t) (f : SkipFlags) : KeepsRingsBut cs s (t.setSkip f) :=
  ⟨h.cfg, by simpa using h.ring⟩

theorem KeepsRingsBut.setRing (h : KeepsRingsBut cs s t) (hc : c ∈ cs) (r : Ring) : KeepsRingsBut cs s (t.setRing c r) := by
  refine ⟨by simpa using h.cfg, fun e he => ?_⟩
  have hne : e ≠ c := fun hec => he (hec ▸ hc)
  rw [State.setRing_ring_of_ne hne, h.ring e he]

theorem KeepsRingsBut.queue (h : KeepsRingsBut cs s t) (hc : c ∉ cs) : t.queue c = s.queue c := by
  simp only [State.queue, h.ring c hc, h.cfg]

theorem enqueue_keepsRingsBut (h : enqueue q v s = .accepted t) : KeepsRingsBut [txOf q] s t := by
  obtain ⟨-, rfl⟩ | ⟨-, r, -, rfl⟩ := enqueue_accepted h
  · exact (KeepsRingsBut.refl _ s).setDriver q _
  · exact ((KeepsRingsBut.refl _ s).setRing List.mem_cons_self r).setDriver q _

theorem dequeue_keepsRingsBut (h : dequeue q s = .next t) : KeepsRingsBut [rxOf q] s t := by
  obtain ⟨v, r, -, rfl⟩ | ⟨-, rfl⟩ := dequeue_next h
  · exact ((KeepsRingsBut.refl _ s).setRing List.mem_cons_self r).emit _
  · exact (KeepsRingsBut.refl _ s).emit _

theorem harvest_keepsRingsBut (hq : rxOf q ∈ cs) (h : harvest q keep v s = .ok t) : KeepsRingsBut cs s t := by
  obtain ⟨-, r, -, rfl⟩ | ⟨-, rfl⟩ := harvest_ok h
  · exact (KeepsRingsBut.refl cs s).setRing hq r
  · exact .refl cs _

theorem refill_keepsRingsBut (hq : txOf q ∈ cs) (h : refill q s = .ok t) : KeepsRingsBut cs s t := by
  obtain ⟨v, r, -, rfl⟩ | ⟨-, rfl⟩ := refill_ok h
  · exact ((KeepsRingsBut.refl cs s).setRing hq r).setDriver q _
  · exact (KeepsRingsBut.refl cs s).setDriver q _

theorem fireHook_keepsRingsBut (p : Peripheral) (s : State) : KeepsRingsBut cs s (fireHook p s) := by
  obtain hhook | ⟨o, hhook⟩ := fireHook_cases p s <;> rw [hhook]
  · exact .refl cs s
  · exact (KeepsRingsBut.refl cs s).emit o

theorem finishExchange_keepsRingsBut (h : finishExchange q keep v s = .next t) : KeepsRingsBut [rxOf q, txOf q] s t := by
  obtain ⟨a, b, hharvest, hrefill, rfl⟩ := finishExchange_next h
  have ha : KeepsRingsBut [rxOf q, txOf q] s a := harvest_keepsRingsBut (by simp) hharvest
  exact (ha.trans (refill_keepsRingsBut (by simp) hrefill)).trans (fireHook_keepsRingsBut q b)

theorem recordSentU_keepsRingsBut (s : State) : KeepsRingsBut cs s (recordSentU s) := by
  obtain hsent | ⟨o, hsent⟩ := recordSentU_cases s <;> rw [hsent]
  · exact .refl cs s
  · exact (KeepsRingsBut.refl cs s).emit o

theorem recordSentS_keepsRingsBut (s : State) : KeepsRingsBut cs s (recordSentS s) := by
  obtain ⟨o, n, hsent⟩ := recordSentS_cases s
  rw [hsent]
  exact ⟨rfl, fun c _ => by cases c <;> rfl⟩

/-- The ring buffers an operation can write (R43). -/
def ringsWritten : Instr → List Channel
  | .enqU _ => [.uartTx]
  | .enqS _ _ => [.spiTx]
  | .deqU => [.uartRx]
  | .deqS => [.spiRx]
  | .rst c => [c]
  | .empty _ => []
  | .full _ => []
  | .hookset _ => []
  | .hookclr _ => []
  | .xchgU _ => [.uartRx, .uartTx]
  | .xchgS _ => [.spiRx, .spiTx]

/-- No operation writes another ring buffer or the configuration (R41, R43). -/
theorem exec_keepsRingsBut {i : Instr} (h : exec i s = .next t) : KeepsRingsBut (ringsWritten i) s t := by
  have hsame := KeepsRingsBut.refl (ringsWritten i) s
  cases i with
  | enqU value =>
    obtain ⟨u, henq, rfl⟩ | ⟨-, rfl⟩ := execEnqU_next h
    · exact (enqueue_keepsRingsBut henq).emit _
    · exact hsame.emit _
  | enqS value keep =>
    obtain ⟨u, f, henq, -, rfl⟩ | ⟨-, rfl⟩ := execEnqS_next h
    · exact ((enqueue_keepsRingsBut henq).setSkip f).emit _
    · exact hsame.emit _
  | deqU => exact dequeue_keepsRingsBut h
  | deqS => exact dequeue_keepsRingsBut h
  | rst c =>
    refine ⟨?_, fun e he => execRst_ring (by simpa [ringsWritten] using he) h⟩
    obtain rfl := respond_next h
    cases c <;> rfl
  | empty c => obtain rfl := respond_next h; exact hsame.emit _
  | full c => obtain rfl := respond_next h; exact hsame.emit _
  | hookset p => obtain rfl := respond_next h; exact (hsame.setDriver p _).emit _
  | hookclr p => obtain rfl := respond_next h; exact (hsame.setDriver p _).emit _
  | xchgU rx =>
    exact (recordSentU_keepsRingsBut s).trans (finishExchange_keepsRingsBut ((execXchgU_eq rx s).symm.trans h))
  | xchgS rx =>
    exact ((recordSentS_keepsRingsBut s).setSkip _).trans (finishExchange_keepsRingsBut ((execXchgS_eq rx s).symm.trans h))

/-! ### Every operation completes -/

theorem finishExchange_completes (hrx : (s.ring (rxOf p)).Aligned s.cfg.N) (htx : (s.ring (txOf p)).Aligned s.cfg.N)
    (keep : Bool) (rx : Element) : ∃ t, finishExchange p keep rx s = .next t := by
  obtain ⟨a, ha⟩ := harvest_completes hrx keep rx
  have hkeeps : KeepsRingsBut [rxOf p] s a := harvest_keepsRingsBut (by simp) ha
  have htx' : (a.ring (txOf p)).Aligned a.cfg.N := by
    rw [hkeeps.cfg, hkeeps.ring _ (by simpa using txOf_ne_rxOf p p)]
    exact htx
  obtain ⟨b, hb⟩ := refill_completes htx'
  simp [finishExchange, ha, hb]

/-- Both events complete whenever the ring buffers are aligned, from the orphan state too (R124). -/
theorem event_completes {i : Instr} (h : ∀ c, (s.ring c).Aligned s.cfg.N) (hi : eventOf i ≠ none) :
    ∃ t, exec i s = .next t := by
  cases i with
  | xchgU rx =>
    have hsent := recordSentU_keepsRingsBut (cs := []) s
    have hring : ∀ c, ((recordSentU s).ring c).Aligned (recordSentU s).cfg.N := fun c => by
      rw [hsent.cfg, hsent.ring c List.not_mem_nil]; exact h c
    exact finishExchange_completes (hring _) (hring _) true rx
  | xchgS rx =>
    have hsent := (recordSentS_keepsRingsBut (cs := []) s).setSkip (sfConsume s.cfg.idleKeep s.skip).2
    have hring : ∀ c, (((recordSentS s).setSkip _).ring c).Aligned ((recordSentS s).setSkip _).cfg.N := fun c => by
      rw [hsent.cfg, hsent.ring c List.not_mem_nil]; exact h c
    exact finishExchange_completes (hring _) (hring _) _ rx
  | enqU _ | enqS _ _ | deqU | deqS | rst _ | empty _ | full _ | hookset _ | hookclr _ => exact absurd rfl hi

/-- Every operation completes from a well-formed state. ENQ.S finds room in the vector because `V >= N + 1` (R8, R31). -/
theorem exec_completes (h : s.WF) (i : Instr) : ∃ t, exec i s = .next t := by
  have haligned : ∀ c, (s.ring c).Aligned s.cfg.N := fun c => ((wf_iff.1 h).1.ring c).aligned
  cases i with
  | enqU value =>
    obtain henq | ⟨u, henq⟩ := enqueue_cases (haligned (txOf .uart)) value
    · simp [exec, execEnqU, henq, raiseStatus, respond]
    · simp [exec, execEnqU, henq, respond]
  | enqS value keep =>
    obtain henq | ⟨u, henq⟩ := enqueue_cases (haligned (txOf .spi)) value
    · simp [exec, execEnqS, henq, raiseStatus, respond]
    · obtain ⟨hcfg, hpos⟩ := pos_le_of_enqueue_accepted h henq
      have hroom : u.skip.pos < u.cfg.V := by rw [hcfg]; exact Nat.lt_of_succ_le ((Nat.succ_le_succ hpos).trans h.1.2)
      simp [exec, execEnqS, henq, sfRecord_of_pos_lt hroom, respond]
  | deqU => exact dequeue_completes (haligned _)
  | deqS => exact dequeue_completes (haligned _)
  | rst _ | empty _ | full _ | hookset _ | hookclr _ => exact ⟨_, rfl⟩
  | xchgU rx => exact event_completes haligned (by simp [eventOf])
  | xchgS rx => exact event_completes haligned (by simp [eventOf])

end Sys2Proof.Machine
end

section
/-!
PROOFS. Received elements come out of DEQ in order (20_memory.md R61, 43_exchange_driver.md R120, R127): what one operation stores in
RX(p) and delivers from it, and the sum of that over a sequence.
-/
namespace Sys2Proof.Machine

variable {s t : State} {p q : Peripheral} {i : Instr} {is : List Instr} {rx : Element} {keep : Bool}

/-! ### Response words and new records (R70, R177) -/

@[simp] theorem responseStatus_responseWord (st : Status) (data : Element) :
    responseStatus (responseWord st data) = statusCode st := by
  ext k hk
  simp only [responseStatus, responseWord]
  interval_cases k <;> simp

@[simp] theorem responseData_responseWord (st : Status) (data : Element) : responseData (responseWord st data) = data := by
  ext k hk
  simp only [responseData, responseWord]
  interval_cases k <;> simp

/-- One response contributes its data exactly when its status is `Ok`. -/
theorem okData_response (st : Status) (data : Element) :
    okData [.response (responseWord st data)] = if st = .ok then [data] else [] := by
  cases st <;> simp [okData, responsesOf, statusCode]

theorem newOutputs_of_out_eq {o : List Output} (h : t.out = s.out ++ o) : newOutputs s t = o := by
  rw [newOutputs, h, List.drop_left]

/-! ### The decision that governs an SPI exchange -/

theorem length_inflight (h : s.WF) (p : Peripheral) : (s.inflight p).length = s.pending p := by
  have hqueue : (s.queue (txOf p)).length = (s.ring (txOf p)).cnt := ((wf_iff.1 h).1.ring _).aligned.length_queue
  rw [State.inflight, List.length_append, hqueue, State.pending, Nat.add_comm]
  cases hloaded : (s.driver p).loaded <;> simp [Driver.staged, hloaded]

/-- The decisions are those of the elements in flight, one each (R31, R33). -/
theorem map_snd_inflightPairs (h : s.WF) : s.inflightPairs.map Prod.snd = s.skip.decisions := by
  refine List.map_snd_zip ?_
  rw [length_decisions, length_inflight h, (wf_iff.1 h).2.pos_eq]

/-- SF.CONSUME answers the decision of the element in the slot, or `IDLE_KEEP` with nothing in flight (R93, R127). -/
theorem consume_eq_head_decision (h : s.WF) (idleKeep : Bool) :
    (sfConsume idleKeep s.skip).1 = (s.inflightPairs.head?.map Prod.snd).getD idleKeep := by
  rw [← List.head?_map, map_snd_inflightPairs h]
  by_cases hpos : s.skip.pos = 0
  · simp [sfConsume_idle hpos, SkipFlags.decisions, hpos]
  · simp [decisions_consume idleKeep hpos]

/-! ### What one operation stores and delivers -/

/-- What operation `i` of state `s` stores in RX(p): the summand of `storedValues`. -/
def storedBy (p : Peripheral) (i : Instr) (s : State) : List Element :=
  if eventOf i = some p ∧ (s.queue (rxOf p)).length < s.cfg.N ∧
      (p = .uart ∨ ((s.inflightPairs.head?.map Prod.snd).getD s.cfg.idleKeep) = true)
  then [rxOperand i] else []

/-- What operation `i` from `s` to `t` delivers from RX(p): the summand of `deliveredValues`. -/
def deliveredBy (p : Peripheral) (i : Instr) (s t : State) : List Element :=
  if isDequeue p i then okData (newOutputs s t) else []

theorem storedValues_cons (h : exec i s = .next t) :
    storedValues p (i :: is) s = storedBy p i s ++ storedValues p is t := by
  simp only [storedValues, h, storedBy]

theorem deliveredValues_cons (h : exec i s = .next t) :
    deliveredValues p (i :: is) s = deliveredBy p i s t ++ deliveredValues p is t := by
  simp only [deliveredValues, h, deliveredBy]

theorem runInstrs_cons (h : exec i s = .next t) : runInstrs (i :: is) s = runInstrs is t := by
  simp only [runInstrs, h]

theorem storedBy_of_not_event (h : eventOf i ≠ some p) : storedBy p i s = [] := if_neg fun hi => h hi.1

theorem deliveredBy_of_not_dequeue (h : isDequeue p i = false) : deliveredBy p i s t = [] := by simp [deliveredBy, h]

/-- The harvest appends a kept element that finds room, and drops any other (R120, R127). -/
theorem harvest_queue (h : (s.ring (rxOf p)).Aligned s.cfg.N) (ht : harvest p keep rx s = .ok t) :
    t.queue (rxOf p) =
      s.queue (rxOf p) ++ if keep = true ∧ (s.queue (rxOf p)).length < s.cfg.N then [rx] else [] := by
  have hlength : (s.queue (rxOf p)).length = (s.ring (rxOf p)).cnt := h.length_queue
  obtain ⟨rfl, r, hpush, rfl⟩ | ⟨hdrop, rfl⟩ := harvest_ok ht
  · have hroom : (s.queue (rxOf p)).length < s.cfg.N :=
      hlength ▸ Nat.lt_of_le_of_ne h.cnt_le (rbPush_ok hpush).1
    rw [if_pos ⟨rfl, hroom⟩]
    simpa [State.queue] using h.queue_push hpush
  · have hno : ¬ (keep = true ∧ (t.queue (rxOf p)).length < t.cfg.N) := by
      rintro ⟨hkeep, hroom⟩
      obtain hdrop | hfull := hdrop
      · simp [hkeep] at hdrop
      · omega
    rw [if_neg hno, List.append_nil]

/-- Refill and hook leave what the harvest left in RX(p). -/
theorem finishExchange_queue (h : (s.ring (rxOf p)).Aligned s.cfg.N) (ht : finishExchange p keep rx s = .next t) :
    t.queue (rxOf p) =
      s.queue (rxOf p) ++ if keep = true ∧ (s.queue (rxOf p)).length < s.cfg.N then [rx] else [] := by
  obtain ⟨a, b, hharvest, hrefill, rfl⟩ := finishExchange_next ht
  have hrest : KeepsRingsBut [txOf p] a (fireHook p b) :=
    (refill_keepsRingsBut (by simp) hrefill).trans (fireHook_keepsRingsBut p b)
  rw [hrest.queue (by simpa using (txOf_ne_rxOf p p).symm), harvest_queue h hharvest]

/-- An event of `p` appends what it stores to the queue of RX(p). -/
theorem event_queue (h : s.WF) (hi : eventOf i = some p) (ht : exec i s = .next t) :
    t.queue (rxOf p) = s.queue (rxOf p) ++ storedBy p i s := by
  have haligned : ∀ c, (s.ring c).Aligned s.cfg.N := fun c => ((wf_iff.1 h).1.ring c).aligned
  cases i with
  | xchgU rx =>
    obtain rfl : Peripheral.uart = p := Option.some.inj hi
    have hsent := recordSentU_keepsRingsBut (cs := []) s
    have hqueue := finishExchange_queue (by rw [hsent.cfg, hsent.ring _ List.not_mem_nil]; exact haligned _)
      ((execXchgU_eq rx s).symm.trans ht)
    rw [hsent.queue List.not_mem_nil, hsent.cfg] at hqueue
    simpa [storedBy, eventOf, rxOperand] using hqueue
  | xchgS rx =>
    obtain rfl : Peripheral.spi = p := Option.some.inj hi
    have hsent := (recordSentS_keepsRingsBut (cs := []) s).setSkip (sfConsume s.cfg.idleKeep s.skip).2
    have hqueue := finishExchange_queue (by rw [hsent.cfg, hsent.ring _ List.not_mem_nil]; exact haligned _)
      ((execXchgS_eq rx s).symm.trans ht)
    rw [hsent.queue List.not_mem_nil, hsent.cfg, consume_eq_head_decision h] at hqueue
    simpa [storedBy, eventOf, rxOperand, and_comm] using hqueue
  | enqU _ | enqS _ _ | deqU | deqS | rst _ | empty _ | full _ | hookset _ | hookclr _ => cases hi

/-- A dequeue answers the head of RX(p), or nothing when it is empty (R61). -/
theorem dequeue_queue (ht : dequeue p s = .next t) :
    s.queue (rxOf p) = okData (newOutputs s t) ++ t.queue (rxOf p) := by
  obtain ⟨v, r, hpop, rfl⟩ | ⟨-, rfl⟩ := dequeue_next ht
  · rw [newOutputs_of_out_eq (o := [.response (responseWord .ok v)]) (by simp), okData_response]
    simpa [State.queue] using queue_pop hpop
  · rw [newOutputs_of_out_eq (State.emit_out s _), okData_response]
    simp [State.queue]

theorem isDequeue_iff : isDequeue p i = true ↔ (i = .deqU ∧ p = .uart) ∨ (i = .deqS ∧ p = .spi) := by
  cases i <;> simp [isDequeue]

/-- Only the events of `p`, DEQ on RX(p) and its RST write RX(p) (R43). -/
theorem rxOf_not_mem_ringsWritten (hevent : eventOf i ≠ some p) (hdequeue : isDequeue p i = false) (hrst : i ≠ .rst (rxOf p)) :
    rxOf p ∉ ringsWritten i := by
  cases i with
  | rst c => simpa [ringsWritten] using fun h : rxOf p = c => hrst (h ▸ rfl)
  | enqU _ | enqS _ _ | deqU | deqS | xchgU _ | xchgS _ =>
    cases p <;> simp_all [ringsWritten, isDequeue, eventOf]
  | empty _ | full _ | hookset _ | hookclr _ => exact List.not_mem_nil

/-- What was queued and what an operation stores is what it delivers and what is queued after it. -/
theorem exec_queue_balance (h : s.WF) (hrst : i ≠ .rst (rxOf p)) (ht : exec i s = .next t) :
    s.queue (rxOf p) ++ storedBy p i s = deliveredBy p i s t ++ t.queue (rxOf p) := by
  by_cases hevent : eventOf i = some p
  · have hdequeue : isDequeue p i = false := by cases i <;> simp_all [eventOf, isDequeue]
    rw [deliveredBy_of_not_dequeue hdequeue, event_queue h hevent ht, List.nil_append]
  rw [storedBy_of_not_event hevent, List.append_nil]
  cases hdequeue : isDequeue p i with
  | true =>
    rw [deliveredBy, if_pos hdequeue]
    obtain ⟨rfl, rfl⟩ | ⟨rfl, rfl⟩ := isDequeue_iff.1 hdequeue
    · exact dequeue_queue (p := .uart) ht
    · exact dequeue_queue (p := .spi) ht
  | false =>
    have hkeeps := exec_keepsRingsBut ht
    rw [deliveredBy_of_not_dequeue hdequeue, hkeeps.queue (rxOf_not_mem_ringsWritten hevent hdequeue hrst), List.nil_append]

/-- Settles O41, by induction on the sequence: the balance of its first operation, then that of the rest. -/
theorem receivedElementsAreDeliveredInOrder : Obligations.ReceivedElementsAreDeliveredInOrder := by
  intro p is
  induction is with
  | nil => exact fun s _ _ _ => ⟨s, rfl, by simp [storedValues, deliveredValues]⟩
  | cons i is ih =>
    intro s h hi hrst
    obtain ⟨hfirst, hrest⟩ := List.forall_mem_cons.1 hi
    obtain ⟨hne, hrst⟩ := not_or.1 (mt List.mem_cons.2 hrst)
    obtain ⟨u, hu⟩ := exec_completes h i
    obtain ⟨hwf, hcfg⟩ := exec_wf h hfirst hu
    obtain ⟨t, ht, hbalance⟩ := ih u hwf (hcfg ▸ hrest) hrst
    refine ⟨t, (runInstrs_cons hu).trans ht, ?_⟩
    calc s.queue (rxOf p) ++ storedValues p (i :: is) s
        = deliveredBy p i s u ++ (u.queue (rxOf p) ++ storedValues p is u) := by
          rw [storedValues_cons hu, ← List.append_assoc, exec_queue_balance h (Ne.symm hne) hu, List.append_assoc]
      _ = deliveredValues p (i :: is) s ++ t.queue (rxOf p) := by
          rw [hbalance, deliveredValues_cons hu, List.append_assoc]

end Sys2Proof.Machine
end

section
/-!
PROOFS. An operation stores at most one element, at the write index of the ring buffer it pushes to (20_memory.md R48, R86): RB.PUSH is
the only part of an operation that writes an array.
-/
namespace Sys2Proof.Machine

/-- From `s` to `t` every location reads the same, but for the one given, if one is. -/
def StoresOnlyAt (o : Option (Channel × Nat)) (s t : State) : Prop :=
  ∀ (c : Channel) (j : Nat), o ≠ some (c, j) → t.readElement c j = s.readElement c j

variable {s t u : State} {p : Peripheral} {c : Channel} {r : Ring} {v : Element} {keep : Bool} {o : Option (Channel × Nat)}

/-! ### Parts of an operation -/

theorem StoresOnlyAt.refl (o : Option (Channel × Nat)) (s : State) : StoresOnlyAt o s s := fun _ _ _ => rfl

theorem StoresOnlyAt.trans (h : StoresOnlyAt o s t) (h' : StoresOnlyAt o t u) : StoresOnlyAt o s u :=
  fun c j hne => (h' c j hne).trans (h c j hne)

/-- What keeps every array stores nothing. -/
theorem StoresOnlyAt.of_buf_eq (h : ∀ c, (t.ring c).buf = (s.ring c).buf) : StoresOnlyAt o s t := by
  intro c j _
  rw [State.readElement, h, State.readElement]

theorem StoresOnlyAt.emit (h : StoresOnlyAt o s t) (x : Output) : StoresOnlyAt o s (t.emit x) :=
  h.trans (.of_buf_eq (by simp))

theorem StoresOnlyAt.setDriver (h : StoresOnlyAt o s t) (p : Peripheral) (d : Driver) : StoresOnlyAt o s (t.setDriver p d) :=
  h.trans (.of_buf_eq (by simp))

theorem StoresOnlyAt.setSkip (h : StoresOnlyAt o s t) (f : SkipFlags) : StoresOnlyAt o s (t.setSkip f) :=
  h.trans (.of_buf_eq (by simp))

/-- What leaves every ring buffer alone stores nothing. -/
theorem KeepsRingsBut.storesOnlyAt (h : KeepsRingsBut [] s t) : StoresOnlyAt o s t :=
  .of_buf_eq fun c => by rw [h.ring c List.not_mem_nil]

/-- A ring buffer replaced by one with the same array. -/
theorem StoresOnlyAt.setRing (h : StoresOnlyAt o s t) (hbuf : r.buf = (t.ring c).buf) : StoresOnlyAt o s (t.setRing c r) := by
  refine h.trans (.of_buf_eq fun e => ?_)
  by_cases he : e = c
  · subst he; simpa using hbuf
  · rw [State.setRing_ring_of_ne he]

/-- RB.PUSH stores at the write index (R81). -/
theorem push_storesOnlyAt (hpush : rbPush s.cfg.N c v (s.ring c) = .ok r) :
    StoresOnlyAt (some (s.storeAddress c)) s (s.setRing c r) := by
  obtain ⟨-, -, rfl⟩ := rbPush_ok hpush
  intro e j hne
  by_cases he : e = c
  · subst he
    have hj : j ≠ (s.ring e).wr := fun hj => hne (by rw [State.storeAddress, hj])
    simpa [State.readElement] using Memory.read_write_of_ne hj
  · rw [State.readElement, State.setRing_ring_of_ne he, State.readElement]

/-- RB.POP leaves the stored element in place (R51, R62). -/
theorem pop_storesOnlyAt (hpop : rbPop s.cfg.N c (s.ring c) = .ok v r) : StoresOnlyAt o s (s.setRing c r) := by
  obtain ⟨-, -, -, rfl⟩ := rbPop_ok hpop
  exact (StoresOnlyAt.refl o s).setRing rfl

/-- An accepted enqueue stores on the slow path only. -/
theorem enqueue_storesOnlyAt (h : enqueue p v s = .accepted t) :
    StoresOnlyAt (if fastPath (s.driver p) (s.ring (txOf p)) || rbFull s.cfg.N (s.ring (txOf p)) then none
      else some (s.storeAddress (txOf p))) s t := by
  obtain ⟨-, rfl⟩ | ⟨hslow, r, hpush, rfl⟩ := enqueue_accepted h
  · exact (StoresOnlyAt.refl _ s).setDriver p _
  · have hroom : rbFull s.cfg.N (s.ring (txOf p)) = false := by simpa [rbFull] using (rbPush_ok hpush).1
    simpa [hslow, hroom] using (push_storesOnlyAt hpush).setDriver p _

theorem dequeue_storesOnlyAt (h : dequeue p s = .next t) : StoresOnlyAt o s t := by
  obtain ⟨v, r, hpop, rfl⟩ | ⟨-, rfl⟩ := dequeue_next h
  · exact (pop_storesOnlyAt hpop).emit _
  · exact (StoresOnlyAt.refl o s).emit _

/-- The harvest stores a kept element that finds room. -/
theorem harvest_storesOnlyAt (h : harvest p keep v s = .ok t)
    (ho : keep = true → rbFull s.cfg.N (s.ring (rxOf p)) = false → o = some (s.storeAddress (rxOf p))) : StoresOnlyAt o s t := by
  obtain ⟨hkeep, r, hpush, rfl⟩ | ⟨-, rfl⟩ := harvest_ok h
  · have hroom : rbFull s.cfg.N (s.ring (rxOf p)) = false := by simpa [rbFull] using (rbPush_ok hpush).1
    exact ho hkeep hroom ▸ push_storesOnlyAt hpush
  · exact .refl o _

theorem refill_storesOnlyAt (h : refill p s = .ok t) : StoresOnlyAt o s t := by
  obtain ⟨v, r, hpop, rfl⟩ | ⟨-, rfl⟩ := refill_ok h
  · exact (pop_storesOnlyAt hpop).setDriver p _
  · exact (StoresOnlyAt.refl o s).setDriver p _

/-- The common end of both events stores what the harvest stores. -/
theorem finishExchange_storesOnlyAt (h : finishExchange p keep v s = .next t)
    (ho : keep = true → rbFull s.cfg.N (s.ring (rxOf p)) = false → o = some (s.storeAddress (rxOf p))) : StoresOnlyAt o s t := by
  obtain ⟨a, b, hharvest, hrefill, rfl⟩ := finishExchange_next h
  exact ((harvest_storesOnlyAt hharvest ho).trans (refill_storesOnlyAt hrefill)).trans (fireHook_keepsRingsBut p b).storesOnlyAt

/-- After a part that leaves the ring buffers alone, the store address is as before. -/
theorem KeepsRingsBut.storeAddress (h : KeepsRingsBut [] s t) (c : Channel) : t.storeAddress c = s.storeAddress c := by
  rw [State.storeAddress, h.ring c List.not_mem_nil, State.storeAddress]

/-! ### Every operation -/

theorem execXchgU_storesOnlyAt (h : execXchgU v s = .next t) : StoresOnlyAt (s.storeAddressOf (.xchgU v)) s t := by
  have hsent : KeepsRingsBut [] s (recordSentU s) := recordSentU_keepsRingsBut s
  refine hsent.storesOnlyAt.trans (finishExchange_storesOnlyAt ((execXchgU_eq v s).symm.trans h) fun _ hroom => ?_)
  rw [hsent.cfg, hsent.ring _ List.not_mem_nil] at hroom
  rw [hsent.storeAddress]
  exact if_neg (ne_true_of_eq_false hroom)

theorem execXchgS_storesOnlyAt (h : execXchgS v s = .next t) : StoresOnlyAt (s.storeAddressOf (.xchgS v)) s t := by
  have hsent : KeepsRingsBut [] s ((recordSentS s).setSkip (sfConsume s.cfg.idleKeep s.skip).2) :=
    (recordSentS_keepsRingsBut s).setSkip _
  refine hsent.storesOnlyAt.trans (finishExchange_storesOnlyAt ((execXchgS_eq v s).symm.trans h) fun hkeep hroom => ?_)
  rw [hsent.cfg, hsent.ring _ List.not_mem_nil] at hroom
  rw [hsent.storeAddress]
  have hstores : ((sfConsume s.cfg.idleKeep s.skip).1 && !rbFull s.cfg.N (s.ring (rxOf .spi))) = true := by
    rw [hkeep, hroom]; rfl
  exact if_pos hstores

/-- Settles O44, operation by operation: only ENQ on its slow path and the harvest of an event push. -/
theorem onlyTheWriteIndexIsStored : Obligations.OnlyTheWriteIndexIsStored := by
  intro i s t h
  have hsame := StoresOnlyAt.refl (s.storeAddressOf i) s
  change StoresOnlyAt (s.storeAddressOf i) s t
  cases i with
  | enqU value =>
    obtain ⟨u, henq, rfl⟩ | ⟨-, rfl⟩ := execEnqU_next h
    · exact (enqueue_storesOnlyAt henq).emit _
    · exact hsame.emit _
  | enqS value keep =>
    obtain ⟨u, f, henq, -, rfl⟩ | ⟨-, rfl⟩ := execEnqS_next h
    · exact ((enqueue_storesOnlyAt henq).setSkip f).emit _
    · exact hsame.emit _
  | deqU => exact dequeue_storesOnlyAt h
  | deqS => exact dequeue_storesOnlyAt h
  | rst c =>
    obtain rfl := respond_next h
    have hring := hsame.setRing (c := c) (r := rbReset (s.ring c)) rfl
    exact (hring.trans (.of_buf_eq fun e => by rw [resetDriverOf_ring])).emit _
  | empty c => obtain rfl := respond_next h; exact hsame.emit _
  | full c => obtain rfl := respond_next h; exact hsame.emit _
  | hookset p => obtain rfl := respond_next h; exact (hsame.setDriver p _).emit _
  | hookclr p => obtain rfl := respond_next h; exact (hsame.setDriver p _).emit _
  | xchgU rx => exact execXchgU_storesOnlyAt h
  | xchgS rx => exact execXchgS_storesOnlyAt h

end Sys2Proof.Machine
end

section
/-!
PROOFS. The two events of one period commute (20_memory.md R53). An event reads and writes only the part of the state that belongs to its
peripheral, and appends records; so it does the same when that part is set into another state, `State.graft`.
-/
namespace Sys2Proof.Machine

/-- `base` with the part of `s` that belongs to `p` set into it, and the records of `s` appended. -/
def State.graft (base : State) (p : Peripheral) (s : State) : State :=
  match p with
  | .uart =>
    { base with cfg := s.cfg, uartRx := s.uartRx, uartTx := s.uartTx, uart := s.uart, out := base.out ++ s.out }
  | .spi =>
    { base with
      cfg := s.cfg, spiRx := s.spiRx, spiTx := s.spiTx, spi := s.spi, skip := s.skip, draws := s.draws
      out := base.out ++ s.out }

/-- The same outcome, the part of its next state that belongs to `p` set into `base`. -/
def outcomeGraft (base : State) (p : Peripheral) : Host.Outcome State Fault Refusal → Host.Outcome State Fault Refusal
  | .next s => .next (base.graft p s)
  | .fault f => .fault f
  | .refused r => .refused r

/-- `s` with its records forgotten. -/
def State.clearOut (s : State) : State := { s with out := [] }

section

variable (base s : State) (p : Peripheral) (r : Ring) (d : Driver) (f : SkipFlags) (o : Output) (keep : Bool) (rx : Element)

/-! ### The small lemmas of graft -/

@[simp] theorem State.graft_cfg : (base.graft p s).cfg = s.cfg := by cases p <;> rfl
@[simp] theorem State.graft_ring_rxOf : (base.graft p s).ring (rxOf p) = s.ring (rxOf p) := by cases p <;> rfl
@[simp] theorem State.graft_ring_txOf : (base.graft p s).ring (txOf p) = s.ring (txOf p) := by cases p <;> rfl
@[simp] theorem State.graft_driver : (base.graft p s).driver p = s.driver p := by cases p <;> rfl
@[simp] theorem State.graft_out : (base.graft p s).out = base.out ++ s.out := by cases p <;> rfl
@[simp] theorem State.graft_uart_uart : (base.graft .uart s).uart = s.uart := rfl
@[simp] theorem State.graft_spi_spi : (base.graft .spi s).spi = s.spi := rfl
@[simp] theorem State.graft_spi_skip : (base.graft .spi s).skip = s.skip := rfl
@[simp] theorem State.setRing_rxOf_graft :
    (base.graft p s).setRing (rxOf p) r = base.graft p (s.setRing (rxOf p) r) := by cases p <;> rfl
@[simp] theorem State.setRing_txOf_graft :
    (base.graft p s).setRing (txOf p) r = base.graft p (s.setRing (txOf p) r) := by cases p <;> rfl
@[simp] theorem State.setDriver_graft : (base.graft p s).setDriver p d = base.graft p (s.setDriver p d) := by cases p <;> rfl
@[simp] theorem State.setSkip_graft : (base.graft .spi s).setSkip f = base.graft .spi (s.setSkip f) := rfl
@[simp] theorem State.emit_graft : (base.graft p s).emit o = base.graft p (s.emit o) := by
  cases p <;> simp [State.graft, State.emit]

/-! ### The parts of an event do the same in any base -/

theorem harvest_graft : harvest p keep rx (base.graft p s) = (harvest p keep rx s).map (base.graft p) := by
  cases keep with
  | false => rfl
  | true =>
    simp only [harvest, State.graft_ring_rxOf, State.graft_cfg]
    cases rbPush s.cfg.N (rxOf p) rx (s.ring (rxOf p)) <;> simp [Except.map]

theorem refill_graft : refill p (base.graft p s) = (refill p s).map (base.graft p) := by
  simp only [refill, State.graft_ring_txOf, State.graft_driver, State.graft_cfg]
  cases rbPop s.cfg.N (txOf p) (s.ring (txOf p)) <;> simp [Except.map]

theorem fireHook_graft : fireHook p (base.graft p s) = base.graft p (fireHook p s) := by
  cases h : (s.driver p).hook <;> simp [fireHook, h]

theorem finishExchange_graft :
    finishExchange p keep rx (base.graft p s) = outcomeGraft base p (finishExchange p keep rx s) := by
  simp only [finishExchange, harvest_graft]
  cases harvest p keep rx s with
  | error f => rfl
  | ok a =>
    simp only [Except.map, refill_graft]
    cases refill p a with
    | error f => rfl
    | ok b => simp only [outcomeGraft, fireHook_graft]

theorem recordSentU_graft : recordSentU (base.graft .uart s) = base.graft .uart (recordSentU s) := by
  cases h : s.uart.loaded <;> simp [recordSentU, emitSent, h]

theorem recordSentS_graft : recordSentS (base.graft .spi s) = base.graft .spi (recordSentS s) := by
  cases h : s.spi.loaded with
  | true => simp [recordSentS, emitSent, h]
  | false => simp [recordSentS, emitDrawn, h, State.graft, State.emit]

end

variable {base s a b t : State} {p : Peripheral} {i : Instr}

/-- An event of `p` does the same to the part of the state that belongs to `p`, whatever the rest is. -/
theorem event_graft (hi : eventOf i = some p) (base s : State) : exec i (base.graft p s) = outcomeGraft base p (exec i s) := by
  cases i with
  | xchgU rx =>
    obtain rfl : Peripheral.uart = p := Option.some.inj hi
    simp only [exec, execXchgU_eq, recordSentU_graft, finishExchange_graft]
  | xchgS rx =>
    obtain rfl : Peripheral.spi = p := Option.some.inj hi
    simp only [exec, execXchgS_eq, recordSentS_graft, State.graft_cfg, State.graft_spi_skip, State.setSkip_graft,
      finishExchange_graft]
  | enqU _ | enqS _ _ | deqU | deqS | rst _ | empty _ | full _ | hookset _ | hookclr _ => cases hi

/-! ### The two events -/

theorem State.graft_clearOut (s : State) (p : Peripheral) : s.graft p s.clearOut = s := by
  cases p <;> simp [State.graft, State.clearOut]

/-- What is set in for the one peripheral leaves the part of the other as it was. -/
theorem State.graft_graft_clearOut {p q : Peripheral} (hpq : p ≠ q) (hcfg : a.cfg = s.cfg) :
    (s.graft p a).graft q s.clearOut = s.graft p a := by
  cases p <;> cases q <;> simp_all [State.graft, State.clearOut]

/-- The parts of the two peripherals are disjoint: they can be set in in either order, but for the order of the records. -/
theorem State.graft_comm (hcfg : a.cfg = b.cfg) :
    (s.graft .spi a).graft .uart b =
      { (s.graft .uart b).graft .spi a with out := ((s.graft .spi a).graft .uart b).out } := by
  simp [State.graft, hcfg]

/-- An event of `p` run from a state whose part of `p` is that of `s`, when its effect on `s` without records is known. -/
theorem event_of_clearOut (hi : eventOf i = some p) (h : exec i s.clearOut = .next t) (hbase : base.graft p s.clearOut = base) :
    exec i base = .next (base.graft p t) := by
  calc exec i base = outcomeGraft base p (exec i s.clearOut) := by rw [← event_graft hi, hbase]
    _ = .next (base.graft p t) := by rw [h, outcomeGraft]

/-- Settles O13: each event, run alone without records, gives the part that both orders set in. -/
theorem eventsOfTheTwoPeripheralsCommute : Obligations.EventsOfTheTwoPeripheralsCommute := by
  rintro s rx ry ⟨huartRx, huartTx, hspiRx, hspiTx⟩
  have haligned : ∀ c, (s.clearOut.ring c).Aligned s.clearOut.cfg.N := fun c => by
    cases c <;> apply RingWF.aligned <;> assumption
  obtain ⟨a, ha⟩ := event_completes (i := .xchgS rx) haligned (by simp [eventOf])
  obtain ⟨b, hb⟩ := event_completes (i := .xchgU ry) haligned (by simp [eventOf])
  have hacfg : a.cfg = s.cfg := (exec_keepsRingsBut ha).cfg
  have hbcfg : b.cfg = s.cfg := (exec_keepsRingsBut hb).cfg
  refine ⟨s.graft .spi a, (s.graft .spi a).graft .uart b, s.graft .uart b, (s.graft .uart b).graft .spi a,
    event_of_clearOut rfl ha (s.graft_clearOut .spi), event_of_clearOut rfl hb (State.graft_graft_clearOut (by decide) hacfg),
    event_of_clearOut rfl hb (s.graft_clearOut .uart), event_of_clearOut rfl ha (State.graft_graft_clearOut (by decide) hbcfg),
    State.graft_comm (hacfg.trans hbcfg.symm), ?_⟩
  rw [newOutputs_of_out_eq (State.graft_out s a .spi), newOutputs_of_out_eq (State.graft_out s b .uart)]
  exact ⟨newOutputs_of_out_eq (by simp), newOutputs_of_out_eq (by simp)⟩

end Sys2Proof.Machine
end

section
/-!
PROOFS. A step performs the word presented next (20_memory.md R52), the word of an instruction decodes to it (30_encoding.md R69, R73), and
inside a period the events go before the command (20_memory.md R53).
-/
namespace Sys2Proof

/-! ### The encoder and the two decoders -/

@[simp] theorem channelOf_channelNumber (c : Channel) : channelOf (channelNumber c) = some c := by cases c <;> rfl

@[simp] theorem peripheralOf_peripheralNumber (p : Peripheral) : peripheralOf (peripheralNumber p) = some p := by cases p <;> rfl

namespace Machine

variable {s : State} {w : Width} {i : Instr} {p : Peripheral} {x : Word32} {q : List Period}

theorem decodeCommand_encode (hi : eventOf i = none) (hw : i.wellFormed w = true) : decodeCommand w (encode i) = some i := by
  cases i with
  | enqU value =>
    have hfits : dataInRange w value = true := hw
    simp [decodeCommand, encode, channelNumber, hfits]
  | enqS value keep =>
    have hfits : dataInRange w value = true := hw
    simp [decodeCommand, encode, channelNumber, hfits]
  | deqU | deqS => simp [decodeCommand, encode, channelNumber]
  | rst c | empty c | full c => simp [decodeCommand, encode]
  | hookset p | hookclr p => simp [decodeCommand, encode]
  | xchgU _ | xchgS _ => cases hi

theorem decodeEvent_encode (hi : eventOf i = some p) (hw : i.wellFormed w = true) : decodeEvent w (encode i) = some i := by
  cases i with
  | xchgU rx | xchgS rx =>
    have hfits : dataInRange w rx = true := hw
    simp [decodeEvent, encode, hfits]
  | enqU _ | enqS _ _ | deqU | deqS | rst _ | empty _ | full _ | hookset _ | hookclr _ => cases hi

/-- Bit 31 of the word of an instruction tells whether it is an event (R63). -/
theorem isEventWord_encode (i : Instr) : isEventWord (encode i) = (eventOf i).isSome := by
  cases i <;> simp [encode, eventOf]

/-- The `sel` of an event's word names its peripheral (R72). -/
theorem fieldSel_encode_event (hi : eventOf i = some p) : fieldSel (encode i) = peripheralNumber p := by
  cases i with
  | xchgU rx => obtain rfl : Peripheral.uart = p := Option.some.inj hi; exact fieldSel_eventWord _ _
  | xchgS rx => obtain rfl : Peripheral.spi = p := Option.some.inj hi; exact fieldSel_eventWord _ _
  | enqU _ | enqS _ _ | deqU | deqS | rst _ | empty _ | full _ | hookset _ | hookclr _ => cases hi

/-! ### The step of the word presented next -/

theorem decodeStrobe_of_decodeEvent (hx : decodeEvent w x = some i) (hi : eventOf i = some p) :
    decodeStrobe w p x = some i := by
  simp [decodeStrobe, hx, hi]

theorem step_of_command (hc : s.cfg.WF) (hnext : takeNext s.schedule = (.command x, q))
    (hx : decodeCommand s.cfg.W x = some i) : step s = exec i (s.setSchedule q) := by
  simp [step_of_fetch hc, fetch, hnext, hx]

theorem step_of_event (hc : s.cfg.WF) (hnext : takeNext s.schedule = (.event p x, q))
    (hx : decodeEvent s.cfg.W x = some i) (hi : eventOf i = some p) : step s = exec i (s.setSchedule q) := by
  simp [step_of_fetch hc, fetch, hnext, decodeStrobe_of_decodeEvent hx hi]

/-- Settles O8: one clause for each port. -/
theorem stepRunsTheDecodedWord : Obligations.StepRunsTheDecodedWord := fun _ _ _ hc =>
  ⟨fun _ hnext hx => step_of_command hc hnext hx, fun _ _ hnext hx hi => step_of_event hc hnext hx hi⟩

/-- A command presented next is performed. -/
theorem step_of_encode_command (hc : s.cfg.WF) (hw : i.wellFormed s.cfg.W = true) (hi : eventOf i = none)
    (hnext : takeNext s.schedule = (.command (encode i), q)) : step s = exec i (s.setSchedule q) :=
  step_of_command hc hnext (decodeCommand_encode hi hw)

/-- An event presented next is performed. -/
theorem step_of_encode_event (hc : s.cfg.WF) (hw : i.wellFormed s.cfg.W = true) (hi : eventOf i = some p)
    (hnext : takeNext s.schedule = (.event p (encode i), q)) : step s = exec i (s.setSchedule q) :=
  step_of_event hc hnext (decodeEvent_encode hi hw) hi

/-! ### A word presented before anything else -/

theorem withFetchWord_encode (s : State) (i : Instr) :
    s.withFetchWord 32 (encode i).toNat = s.setSchedule (presentWord (encode i) :: s.schedule) := by
  rw [State.withFetchWord, Nat.mod_eq_of_lt (encode i).isLt, BitVec.ofNat_toNat, BitVec.setWidth_eq]

/-- A presented command is on the command port. -/
theorem takeNext_present_command (hi : eventOf i = none) (q : List Period) :
    takeNext (presentWord (encode i) :: q) = (.command (encode i), q) := by
  simp [presentWord, isEventWord_encode, hi, takeNext]

/-- A presented event is on the strobe of its peripheral. -/
theorem takeNext_present_event (hi : eventOf i = some p) (q : List Period) :
    takeNext (presentWord (encode i) :: q) = (.event p (encode i), q) := by
  cases p <;> simp [presentWord, isEventWord_encode, fieldSel_encode_event hi, peripheralNumber, hi, takeNext, continuePeriod]

/-- Settles O9: the period presented holds that one word, so the rest of the schedule is as it was. -/
theorem presentedWordIsTheNextStep : Obligations.PresentedWordIsTheNextStep := by
  intro s i hc hw
  rw [withFetchWord_encode]
  cases hi : eventOf i with
  | none => exact step_of_encode_command hc hw hi (takeNext_present_command hi s.schedule)
  | some p => exact step_of_encode_event hc hw hi (takeNext_present_event hi s.schedule)

/-! ### The order inside a period (R53) -/

/-- Settles O12: the strobes are taken before the command, and a period that presents nothing more is over. -/
theorem samePeriodOrder : Obligations.SamePeriodOrder := by
  intro s rx ry i rest hc hrx hry hw hi
  refine ⟨fun hq => ?_, fun hq => ?_, fun hq => ?_⟩
  · exact step_of_encode_event (i := .xchgS rx) hc hrx rfl (by simp [hq, takeNext, continuePeriod])
  · exact step_of_encode_event (i := .xchgU ry) hc hry rfl (by simp [hq, takeNext, continuePeriod])
  · exact step_of_encode_command hc hw hi (by simp [hq, takeNext])

end Machine
end Sys2Proof
end

section
/-!
PROOFS. The decoders, the encoder and the opcode map agree (30_encoding.md R68, R69, R73, R80), and the fields of a response word (R70,
R71). A word is its five fields, so a word that decodes is the word of its instruction; a row of the opcode map fixes fields of the word,
so a word in a row is the word of an instruction with the row's mnemonic.
-/
namespace Sys2Proof

variable {w : Width} {i : Instr} {x y : Word32} {r : OpcodeRow}

/-! ### A word is its fields (R64, R72) -/

/-- The five fields of the command format cover the word (R64). -/
theorem word_ext (hop : fieldOp x = fieldOp y) (hsel : fieldSel x = fieldSel y) (hz : fieldZ x = fieldZ y)
    (hk : fieldK x = fieldK y) (hdata : fieldData x = fieldData y) : x = y := by
  have hbit : ∀ start len, x.extractLsb' start len = y.extractLsb' start len →
      ∀ j < len, x.getLsbD (start + j) = y.getLsbD (start + j) := fun start len hfield j hj => by
    simpa [hj] using congrArg (·.getLsbD j) hfield
  refine BitVec.eq_of_getLsbD_eq fun n hn => ?_
  obtain hlt | rfl | hlt | hlt | hlt : n < 16 ∨ n = 16 ∨ (17 ≤ n ∧ n < 20) ∨ (20 ≤ n ∧ n < 24) ∨ 24 ≤ n := by omega
  · simpa using hbit 0 16 hdata n hlt
  · exact hk
  · simpa [Nat.add_sub_cancel' hlt.1] using hbit 17 3 hz (n - 17) (by omega)
  · simpa [Nat.add_sub_cancel' hlt.1] using hbit 20 4 hsel (n - 20) (by omega)
  · simpa [Nat.add_sub_cancel' hlt] using hbit 24 8 hop (n - 24) (by omega)

/-- A word with `z = 0` is the command word of its other fields (R64). -/
theorem commandWord_eq {op : BitVec 8} {sel : BitVec 4} {k : Bool} {data : Element} (hz : fieldZ x = 0) (hop : fieldOp x = op)
    (hsel : fieldSel x = sel) (hk : fieldK x = k) (hdata : fieldData x = data) : commandWord op sel k data = x :=
  word_ext (by simp [hop]) (by simp [hsel]) (by simp [hz]) (by simp [hk]) (by simp [hdata])

/-- An event word has the layout of a command word with `op = 0x80` and `k = 0` (R64, R72). -/
theorem eventWord_eq_commandWord (sel : BitVec 4) (rx : Element) : eventWord sel rx = commandWord 0x80 sel false rx := by
  simp [eventWord, commandWord]

/-- `z` of an event word lies where `z` and `k` of a command word do (R64, R72). -/
theorem fieldZ_fieldK_of_fieldEventZ (h : fieldEventZ x = 0) : fieldZ x = 0 ∧ fieldK x = false := by
  have hbit : ∀ j < 4, x.getLsbD (16 + j) = false := fun j hj => by
    simpa [fieldEventZ, hj] using congrArg (·.getLsbD j) h
  refine ⟨BitVec.eq_of_getLsbD_eq fun j hj => ?_, hbit 0 (by decide)⟩
  simpa [fieldZ, hj, Nat.add_assoc, Nat.add_comm] using hbit (j + 1) (by omega)

/-! ### The fields of a masked word -/

@[simp] theorem fieldOp_and (x m : Word32) : fieldOp (x &&& m) = fieldOp x &&& fieldOp m := BitVec.extractLsb'_and
@[simp] theorem fieldSel_and (x m : Word32) : fieldSel (x &&& m) = fieldSel x &&& fieldSel m := BitVec.extractLsb'_and
@[simp] theorem fieldZ_and (x m : Word32) : fieldZ (x &&& m) = fieldZ x &&& fieldZ m := BitVec.extractLsb'_and
@[simp] theorem fieldK_and (x m : Word32) : fieldK (x &&& m) = (fieldK x && fieldK m) := BitVec.getLsbD_and
@[simp] theorem fieldData_and (x m : Word32) : fieldData (x &&& m) = fieldData x &&& fieldData m := BitVec.extractLsb'_and

/-! ### Numbers of channels and peripherals (R66) -/

theorem channelOf_eq_some {sel : BitVec 4} {c : Channel} : channelOf sel = some c ↔ sel = channelNumber c := by
  revert sel; cases c <;> decide

theorem peripheralOf_eq_some {sel : BitVec 4} {p : Peripheral} : peripheralOf sel = some p ↔ sel = peripheralNumber p := by
  revert sel; cases p <;> decide

theorem channelNumber_le (c : Channel) : (channelNumber c).toNat ≤ 3 := by cases c <;> decide

theorem peripheralNumber_le (p : Peripheral) : (peripheralNumber p).toNat ≤ 1 := by cases p <;> decide

/-- Only 4 to 15 are reserved as channel numbers (R66). -/
theorem exists_channelNumber {sel : BitVec 4} (h : sel.toNat ≤ 3) : ∃ c, sel = channelNumber c := by
  have hsome : (channelOf sel).isSome = true := by revert sel; decide
  obtain ⟨c, hc⟩ := Option.isSome_iff_exists.1 hsome
  exact ⟨c, channelOf_eq_some.1 hc⟩

/-- Only 2 to 15 are reserved as peripheral numbers (R66). -/
theorem exists_peripheralNumber {sel : BitVec 4} (h : sel.toNat ≤ 1) : ∃ p, sel = peripheralNumber p := by
  have hsome : (peripheralOf sel).isSome = true := by revert sel; decide
  obtain ⟨p, hp⟩ := Option.isSome_iff_exists.1 hsome
  exact ⟨p, peripheralOf_eq_some.1 hp⟩

/-! ### Decoding and encoding (R69, R73) -/

/-- Settles O1: bit 31 of the word picks the decoder, and each decoder reads back the fields the encoder wrote. -/
theorem decodeInvertsEncode : Obligations.DecodeInvertsEncode := by
  intro w i hw
  cases hi : Machine.eventOf i with
  | none => simp [decodeWord, Machine.isEventWord_encode, hi, Machine.decodeCommand_encode hi hw]
  | some p => simp [decodeWord, Machine.isEventWord_encode, hi, Machine.decodeEvent_encode hi hw]

/-- The command decoder ignores no bit: every field is fixed by its checks or is an operand. -/
theorem encode_of_decodeCommand (h : decodeCommand w x = some i) : encode i = x := by
  unfold decodeCommand at h
  split_ifs at h with hformat hop henqU henqS hrest hop hsel hsel hop hop hop hop hop
  all_goals have hz : fieldZ x = 0 := by simpa using (not_or.1 hformat).2
  · obtain ⟨hsel, hk, -⟩ := henqU
    cases h
    exact commandWord_eq hz hop hsel hk rfl
  · cases h
    exact commandWord_eq hz hop henqS.1 rfl rfl
  all_goals obtain ⟨hk, hdata⟩ : fieldK x = false ∧ fieldData x = 0 := by simpa using hrest
  · cases h
    exact commandWord_eq hz hop hsel hk hdata
  · cases h
    exact commandWord_eq hz hop hsel hk hdata
  all_goals obtain ⟨_, hsel, rfl⟩ := Option.map_eq_some_iff.1 h
  · exact commandWord_eq hz hop (channelOf_eq_some.1 hsel) hk hdata
  · exact commandWord_eq hz hop (channelOf_eq_some.1 hsel) hk hdata
  · exact commandWord_eq hz hop (channelOf_eq_some.1 hsel) hk hdata
  · exact commandWord_eq hz hop (peripheralOf_eq_some.1 hsel) hk hdata
  · exact commandWord_eq hz hop (peripheralOf_eq_some.1 hsel) hk hdata

/-- The event decoder ignores no bit. -/
theorem encode_of_decodeEvent (h : decodeEvent w x = some i) : encode i = x := by
  unfold decodeEvent at h
  split at h
  · next hfields =>
    obtain ⟨hop, heventZ, -⟩ := hfields
    obtain ⟨hz, hk⟩ := fieldZ_fieldK_of_fieldEventZ heventZ
    split at h
    · next hsel =>
      cases h
      exact (eventWord_eq_commandWord _ _).trans (commandWord_eq hz hop (peripheralOf_eq_some.1 hsel) hk rfl)
    · next hsel =>
      cases h
      exact (eventWord_eq_commandWord _ _).trans (commandWord_eq hz hop (peripheralOf_eq_some.1 hsel) hk rfl)
    · cases h
  · cases h

/-- Settles O2, by the decoder that bit 31 picks. -/
theorem decodedWordsReencode : Obligations.DecodedWordsReencode := by
  intro w x i h
  unfold decodeWord at h
  split at h
  · exact ⟨encode_of_decodeEvent h, wellFormed_of_decodeEvent h⟩
  · exact ⟨encode_of_decodeCommand h, wellFormed_of_decodeCommand h⟩

/-- The words that decode to an instruction: its own word, and only at a width that can spell it. -/
theorem decodeWord_eq_some_iff : decodeWord w x = some i ↔ encode i = x ∧ i.wellFormed w = true :=
  ⟨decodedWordsReencode w x i, fun ⟨hx, hw⟩ => hx ▸ decodeInvertsEncode w i hw⟩

/-! ### Rows of the opcode map (R80) -/

/-- The word of every instruction has the bits of its row. -/
theorem matchesOpcodeRow (i : Instr) : Laws.MatchesOpcodeRow.Statement i := by
  cases i with
  | enqU value => exact Laws.MatchesOpcodeRow.enqU value
  | enqS value keep => exact Laws.MatchesOpcodeRow.enqS value keep
  | deqU => exact Laws.MatchesOpcodeRow.deqU
  | deqS => exact Laws.MatchesOpcodeRow.deqS
  | rst c => exact Laws.MatchesOpcodeRow.rst c
  | empty c => exact Laws.MatchesOpcodeRow.empty c
  | full c => exact Laws.MatchesOpcodeRow.full c
  | hookset p => exact Laws.MatchesOpcodeRow.hookset p
  | hookclr p => exact Laws.MatchesOpcodeRow.hookclr p
  | xchgU rx => exact Laws.MatchesOpcodeRow.xchgU rx
  | xchgS rx => exact Laws.MatchesOpcodeRow.xchgS rx

/-- The data field of an instruction's word is its element, or 0. -/
theorem dataInRange_encode (hw : i.wellFormed w = true) : dataInRange w (fieldData (encode i)) = true := by
  have hzero : dataInRange w 0 = true := Machine.fits_zero w
  cases i with
  | enqU value | enqS value keep | xchgU rx | xchgS rx => simp only [encode, fieldData_commandWord, fieldData_eventWord]; exact hw
  | deqU | deqS | rst c | empty c | full c | hookset p | hookclr p => simpa [encode] using hzero

/-- The word of an instruction lies in the row with its mnemonic. -/
theorem exists_row_of_encode (hw : i.wellFormed w = true) :
    ∃ r ∈ opcodeMap, r.mnemonic = mnemonicOf i ∧ r.holds w (encode i) = true := by
  obtain ⟨r, hrow, hbits⟩ := matchesOpcodeRow i
  refine ⟨r, List.mem_of_find?_eq_some hrow, by simpa using List.find?_some hrow, ?_⟩
  simp [OpcodeRow.holds, hbits, dataInRange_encode hw]

/-- What a row fixes of a word, when its mask covers `op` and `z`: the word is a command word of the row's `op`, and its other fields
have the masked bits of the row. -/
theorem commandWord_of_masked {m : Word32} {op : BitVec 8} {sel : BitVec 4} {k : Bool} {data : Element}
    (h : x &&& m = commandWord op sel k data) (hop : fieldOp m = .allOnes 8) (hz : fieldZ m = .allOnes 3) :
    commandWord op (fieldSel x) (fieldK x) (fieldData x) = x ∧
    fieldSel x &&& fieldSel m = sel ∧ (fieldK x && fieldK m) = k ∧ fieldData x &&& fieldData m = data := by
  refine ⟨commandWord_eq ?_ ?_ rfl rfl rfl, ?_, ?_, ?_⟩
  · simpa only [fieldZ_and, hz, BitVec.and_allOnes, fieldZ_commandWord] using congrArg fieldZ h
  · simpa only [fieldOp_and, hop, BitVec.and_allOnes, fieldOp_commandWord] using congrArg fieldOp h
  · simpa using congrArg fieldSel h
  · simpa using congrArg fieldK h
  · simpa using congrArg fieldData h

/-- The masks of the channel rows leave the two low bits of `sel` free. -/
theorem le_three_of_masked {sel : BitVec 4} : sel &&& 0xC = 0 → sel.toNat ≤ 3 := by revert sel; decide

/-- The masks of the hook rows leave the low bit of `sel` free. -/
theorem le_one_of_masked {sel : BitVec 4} : sel &&& 0xE = 0 → sel.toNat ≤ 1 := by revert sel; decide

/-- The rows whose one operand is an element: all but `data` is fixed. -/
theorem commandWord_of_elementRow {op : BitVec 8} {sel : BitVec 4} (h : x &&& 0xFFFF0000 = commandWord op sel false 0) :
    commandWord op sel false (fieldData x) = x := by
  obtain ⟨hx, hsel, hk, -⟩ := commandWord_of_masked h rfl rfl
  have hsel : fieldSel x = sel := BitVec.and_allOnes.symm.trans hsel
  have hk : fieldK x = false := (Bool.and_true _).symm.trans hk
  rwa [hsel, hk] at hx

/-- The rows whose operand is a channel: all but the low bits of `sel` is fixed. -/
theorem commandWord_of_channelRow {op : BitVec 8} (h : x &&& 0xFFCFFFFF = commandWord op 0 false 0) :
    ∃ c, commandWord op (channelNumber c) false 0 = x := by
  obtain ⟨hx, hsel, hk, hdata⟩ := commandWord_of_masked h rfl rfl
  obtain ⟨c, hc⟩ := exists_channelNumber (le_three_of_masked hsel)
  have hk : fieldK x = false := (Bool.and_true _).symm.trans hk
  have hdata : fieldData x = 0 := BitVec.and_allOnes.symm.trans hdata
  exact ⟨c, by rwa [hc, hk, hdata] at hx⟩

/-- The rows whose operand is a peripheral: all but the low bit of `sel` is fixed. -/
theorem commandWord_of_peripheralRow {op : BitVec 8} (h : x &&& 0xFFEFFFFF = commandWord op 0 false 0) :
    ∃ p, commandWord op (peripheralNumber p) false 0 = x := by
  obtain ⟨hx, hsel, hk, hdata⟩ := commandWord_of_masked h rfl rfl
  obtain ⟨p, hp⟩ := exists_peripheralNumber (le_one_of_masked hsel)
  have hk : fieldK x = false := (Bool.and_true _).symm.trans hk
  have hdata : fieldData x = 0 := BitVec.and_allOnes.symm.trans hdata
  exact ⟨p, by rwa [hp, hk, hdata] at hx⟩

/-- A word in a row is the word of an instruction with the row's mnemonic. -/
theorem exists_encode_of_row (hr : r ∈ opcodeMap) (h : r.holds w x = true) :
    ∃ i, encode i = x ∧ i.wellFormed w = true ∧ mnemonicOf i = r.mnemonic := by
  obtain ⟨hbits, hdata⟩ : x &&& r.mask = r.pattern ∧ (r.elementOperand = true → dataInRange w (fieldData x) = true) := by
    simpa [OpcodeRow.holds, ← Bool.not_eq_true, ← imp_iff_not_or] using h
  simp only [opcodeMap, List.mem_cons, List.not_mem_nil, or_false] at hr
  obtain rfl | rfl | rfl | rfl | rfl | rfl | rfl | rfl | rfl | rfl | rfl := hr
  · exact ⟨.enqU (fieldData x), commandWord_of_elementRow hbits, hdata rfl, rfl⟩
  · obtain ⟨hx, hsel, -, -⟩ := commandWord_of_masked (op := 0x01) (sel := 3) (k := false) (data := 0) hbits rfl rfl
    have hsel : fieldSel x = 3 := BitVec.and_allOnes.symm.trans hsel
    rw [hsel] at hx
    exact ⟨.enqS (fieldData x) (fieldK x), hx, hdata rfl, rfl⟩
  · exact ⟨.deqU, hbits.symm.trans BitVec.and_allOnes, rfl, rfl⟩
  · exact ⟨.deqS, hbits.symm.trans BitVec.and_allOnes, rfl, rfl⟩
  · obtain ⟨c, hx⟩ := commandWord_of_channelRow (op := 0x03) hbits
    exact ⟨.rst c, hx, rfl, rfl⟩
  · obtain ⟨c, hx⟩ := commandWord_of_channelRow (op := 0x04) hbits
    exact ⟨.empty c, hx, rfl, rfl⟩
  · obtain ⟨c, hx⟩ := commandWord_of_channelRow (op := 0x05) hbits
    exact ⟨.full c, hx, rfl, rfl⟩
  · obtain ⟨p, hx⟩ := commandWord_of_peripheralRow (op := 0x06) hbits
    exact ⟨.hookset p, hx, rfl, rfl⟩
  · obtain ⟨p, hx⟩ := commandWord_of_peripheralRow (op := 0x07) hbits
    exact ⟨.hookclr p, hx, rfl, rfl⟩
  · have hx := commandWord_of_elementRow (op := 0x80) (sel := peripheralNumber .uart) hbits
    exact ⟨.xchgU (fieldData x), (eventWord_eq_commandWord _ _).trans hx, hdata rfl, rfl⟩
  · have hx := commandWord_of_elementRow (op := 0x80) (sel := peripheralNumber .spi) hbits
    exact ⟨.xchgS (fieldData x), (eventWord_eq_commandWord _ _).trans hx, hdata rfl, rfl⟩

/-- Two rows that agree on the bits both masks cover are one row. -/
theorem opcodeMap_disjoint : ∀ r ∈ opcodeMap, ∀ q ∈ opcodeMap, r.pattern &&& q.mask = q.pattern &&& r.mask → r = q := by decide

/-- Settles O3: the words of a row are those of the instructions with its mnemonic, and a word in two rows makes them agree on the bits
both masks cover. -/
theorem opcodeMapDecidesTheOperation : Obligations.OpcodeMapDecidesTheOperation := by
  refine ⟨fun w x m => ⟨?_, ?_⟩, fun x r hr q hq hxr hxq => opcodeMap_disjoint r hr q hq ?_⟩
  · rintro ⟨i, hx, rfl⟩
    obtain ⟨rfl, hw⟩ := decodeWord_eq_some_iff.1 hx
    exact exists_row_of_encode hw
  · rintro ⟨r, hr, rfl, hrow⟩
    obtain ⟨i, hx, hw, hm⟩ := exists_encode_of_row hr hrow
    exact ⟨i, decodeWord_eq_some_iff.2 ⟨hx, hw⟩, hm⟩
  · rw [← hxr, ← hxq, BitVec.and_assoc, BitVec.and_assoc, BitVec.and_comm r.mask]

/-! ### The operand checks (R68, R73) -/

/-- The words that decode to a command: its own word, and only at a width that can spell it (R69). -/
theorem decodeCommand_eq_some_iff : decodeCommand w x = some i ↔ encode i = x ∧ i.wellFormed w = true ∧ Machine.eventOf i = none := by
  refine ⟨fun h => ?_, fun ⟨hx, hw, hi⟩ => hx ▸ Machine.decodeCommand_encode hi hw⟩
  have hx := encode_of_decodeCommand h
  have hbit : isEventWord x = false := by
    by_contra hbit
    rw [decodeCommand, if_pos (.inl (by simpa using hbit))] at h
    cases h
  refine ⟨hx, wellFormed_of_decodeCommand h, ?_⟩
  rwa [← hx, Machine.isEventWord_encode, Option.isSome_eq_false_iff, Option.isNone_iff_eq_none] at hbit

/-- Settles O4: the checks hold of the word of every command, and a word of which they hold is the word of the command that its `op` and
`sel` name. -/
theorem commandWordLegalExactlyWhenChecksHold : Obligations.CommandWordLegalExactlyWhenChecksHold := by
  intro w x
  rw [Option.isSome_iff_exists]
  simp only [decodeCommand_eq_some_iff]
  constructor
  · rintro ⟨i, rfl, hw, hi⟩
    cases i with
    | enqU value | enqS value _ =>
      have hfits : value.toNat < 2 ^ w.bits := of_decide_eq_true hw
      simp [encode, channelNumber, hfits]
    | deqU | deqS => simp [encode, channelNumber]
    | rst c | empty c | full c => simp [encode, channelNumber_le c]
    | hookset p | hookclr p => simp [encode, peripheralNumber_le p]
    | xchgU _ | xchgS _ => cases hi
  · rintro ⟨hz, -, hsel, hk, hdata, hfits⟩
    obtain ⟨hop, hsel | hsel⟩ | ⟨hop, hsel | hsel⟩ | ⟨hop | hop | hop, hsel⟩ | ⟨hop | hop, hsel⟩ := hsel
    · have hk : fieldK x = false := by simpa [hsel] using hk
      exact ⟨.enqU (fieldData x), commandWord_eq hz hop hsel hk rfl, decide_eq_true (hfits hop), rfl⟩
    · exact ⟨.enqS (fieldData x) (fieldK x), commandWord_eq hz hop hsel rfl rfl, decide_eq_true (hfits hop), rfl⟩
    all_goals
      replace hk : fieldK x = false := by simpa [hop] using hk
      replace hdata : fieldData x = 0 := by simpa [hop] using hdata
    · exact ⟨.deqU, commandWord_eq hz hop hsel hk hdata, rfl, rfl⟩
    · exact ⟨.deqS, commandWord_eq hz hop hsel hk hdata, rfl, rfl⟩
    · obtain ⟨c, hc⟩ := exists_channelNumber hsel
      exact ⟨.rst c, commandWord_eq hz hop hc hk hdata, rfl, rfl⟩
    · obtain ⟨c, hc⟩ := exists_channelNumber hsel
      exact ⟨.empty c, commandWord_eq hz hop hc hk hdata, rfl, rfl⟩
    · obtain ⟨c, hc⟩ := exists_channelNumber hsel
      exact ⟨.full c, commandWord_eq hz hop hc hk hdata, rfl, rfl⟩
    · obtain ⟨p, hp⟩ := exists_peripheralNumber hsel
      exact ⟨.hookset p, commandWord_eq hz hop hp hk hdata, rfl, rfl⟩
    · obtain ⟨p, hp⟩ := exists_peripheralNumber hsel
      exact ⟨.hookclr p, commandWord_eq hz hop hp hk hdata, rfl, rfl⟩

/-- Settles O5: a `sel` of at most 1 is the number of a peripheral, and no other names one. -/
theorem eventWordDecode : Obligations.EventWordDecode := by
  intro w x
  by_cases hle : (fieldSel x).toNat ≤ 1
  · obtain ⟨p, hp⟩ := exists_peripheralNumber hle
    cases p <;> simp [decodeEvent, hp, peripheralNumber, peripheralOf, dataInRange]
  · have hnone : peripheralOf (fieldSel x) = none := by
      refine Option.eq_none_iff_forall_ne_some.2 fun p hp => hle ?_
      rw [peripheralOf_eq_some.1 hp]
      exact peripheralNumber_le p
    simp [decodeEvent, hnone, hle]

/-- Settles O6: each word is the word of its instruction. -/
theorem workedEncodings : Obligations.WorkedEncodings := by
  simp only [Obligations.WorkedEncodings, decodeWord_eq_some_iff]
  decide

/-! ### Response words (R70, R71) -/

/-- Settles O7: two fields are read back by the lemmas about them, and nothing lies above bit 17. -/
theorem responseWordFields : Obligations.ResponseWordFields := by
  refine ⟨fun st data => ⟨?_, Machine.responseStatus_responseWord st data, Machine.responseData_responseWord st data⟩,
    by decide, by decide, by decide, by decide⟩
  ext k hk
  simp only [Machine.responseWord]
  interval_cases k <;> simp

end Sys2Proof
end

section
/-!
PROOFS. A sequence of events takes nothing out of a receive ring buffer (10_state.md R43), so an element the foreground saw there is still
there for its DEQ (30_encoding.md R78, 70_reset_and_hazards.md R175).
-/
namespace Sys2Proof.Machine

variable {s t : State} {p : Peripheral} {is : List Instr}

/-! ### Sequences of operations -/

/-- The first operation of a completed sequence completed, and so did the rest from where it ended. -/
theorem exec_of_runInstrs_cons {i : Instr} (h : runInstrs (i :: is) s = some t) : ∃ u, exec i s = .next u ∧ runInstrs is u = some t := by
  cases hu : exec i s with
  | next u => exact ⟨u, rfl, (runInstrs_cons hu).symm.trans h⟩
  | fault f => simp [runInstrs, hu] at h
  | refused r => simp [runInstrs, hu] at h

/-- Every sequence of operations keeps well-formedness and the configuration. -/
theorem runInstrs_wf (h : s.WF) (hi : ∀ i ∈ is, i.wellFormed s.cfg.W = true) (ht : runInstrs is s = some t) :
    t.WF ∧ t.cfg = s.cfg := by
  induction is generalizing s with
  | nil => cases ht; exact ⟨h, rfl⟩
  | cons i is ih =>
    obtain ⟨hfirst, hrest⟩ := List.forall_mem_cons.1 hi
    obtain ⟨u, hu, ht⟩ := exec_of_runInstrs_cons ht
    obtain ⟨hwf, hcfg⟩ := exec_wf h hfirst hu
    obtain ⟨hwf', hcfg'⟩ := ih hwf (hcfg ▸ hrest) ht
    exact ⟨hwf', hcfg'.trans hcfg⟩

/-- A sequence of events keeps to the handler's column. -/
theorem events_handlerWrites (hi : ∀ i ∈ is, eventOf i ≠ none) (ht : runInstrs is s = some t) : HandlerWrites p s t := by
  induction is generalizing s with
  | nil => cases ht; exact .refl p _
  | cons i is ih =>
    obtain ⟨hfirst, hrest⟩ := List.forall_mem_cons.1 hi
    obtain ⟨u, hu, ht⟩ := exec_of_runInstrs_cons ht
    exact (event_handlerWrites hfirst hu).trans (ih hrest ht)

/-! ### EMPTY and DEQ (R78, R102, R103, R105) -/

/-- EMPTY answers 0 only of a ring buffer that holds an element. -/
theorem cnt_ne_zero_of_empty_answers_zero {c : Channel} (h : exec (.empty c) s = .next t)
    (hanswer : newOutputs s t = [.response 0x00000000]) : (s.ring c).cnt ≠ 0 := by
  intro hcnt
  obtain rfl := respond_next h
  rw [newOutputs_of_out_eq (State.emit_out s _)] at hanswer
  have hone : rbEmpty (s.ring c) = true := by simp [rbEmpty, hcnt]
  rw [hone] at hanswer
  exact absurd hanswer (by decide)

theorem exec_deqOf (p : Peripheral) (s : State) : exec (deqOf p) s = dequeue p s := by cases p <;> rfl

/-- DEQ of a receive ring buffer that holds an element delivers one with status `Ok`. -/
theorem dequeue_ok (h : (s.ring (rxOf p)).Aligned s.cfg.N) (hcnt : (s.ring (rxOf p)).cnt ≠ 0) :
    ∃ t v, dequeue p s = .next t ∧ newOutputs s t = [.response (responseWord .ok v)] := by
  obtain ⟨v, r, hpop⟩ := h.exists_pop (ch := rxOf p) hcnt
  refine ⟨(s.setRing (rxOf p) r).emit (.response (responseWord .ok v)), v, by simp [dequeue, hpop, respond], ?_⟩
  exact newOutputs_of_out_eq (by simp)

/-- Settles O35: EMPTY saw an element, the events take nothing out of RX(p), so DEQ finds one. -/
theorem notEmptyGuaranteesTheNextDequeue : Obligations.NotEmptyGuaranteesTheNextDequeue := by
  intro p s a t events hwf hempty hanswer hevents hrun
  have hcnt := cnt_ne_zero_of_empty_answers_zero hempty hanswer
  obtain rfl := respond_next hempty
  have hrx : (s.ring (rxOf p)).cnt ≤ (t.ring (rxOf p)).cnt := by
    simpa using (events_handlerWrites (p := p) (fun e he => (hevents e he).1) hrun).rxCnt
  obtain ⟨ht, -⟩ := runInstrs_wf (hwf.emit _) (fun e he => (hevents e he).2) hrun
  obtain ⟨u, v, hu, hout⟩ := dequeue_ok (p := p) ((wf_iff.1 ht).1.ring _).aligned (by omega)
  exact ⟨u, responseWord .ok v, (exec_deqOf p t).trans hu, hout, responseStatus_responseWord .ok v⟩

end Sys2Proof.Machine
end

section
/-!
PROOFS. The laws of one ring buffer (40_ring_buffer.md R81, R82, R87, R88, R89): what one push or pop does, what a sequence of calls does
to the queue it starts from, and what a reset leaves.
-/
namespace Sys2Proof.Machine

variable {N : Nat} {ch : Channel} {v : Element} {r q : Ring} {calls : List RingCall}

/-! ### The two flags (R83, R84) -/

theorem rbEmpty_iff : rbEmpty r = true ↔ r.cnt = 0 := beq_iff_eq

theorem rbFull_iff : rbFull N r = true ↔ r.cnt = N := beq_iff_eq

theorem rbEmpty_eq_false_iff : rbEmpty r = false ↔ r.cnt ≠ 0 := beq_eq_false_iff_ne

theorem rbFull_eq_false_iff : rbFull N r = false ↔ r.cnt ≠ N := beq_eq_false_iff_ne

/-- The queue of an empty ring buffer. -/
theorem queue_of_cnt_zero (h : r.cnt = 0) : r.queue N = [] := by simp [Ring.queue, h]

/-! ### One call of a sequence (R88) -/

theorem runRing_push_ok (h : rbPush N ch v r = .ok q) : runRing N ch (.push v :: calls) r =
    (runRing N ch calls q).map (fun hist => { hist with pushed := v :: hist.pushed }) := by simp only [runRing, h]

theorem runRing_push_bufferFull (h : rbPush N ch v r = .bufferFull) :
    runRing N ch (.push v :: calls) r = runRing N ch calls r := by simp only [runRing, h]

theorem runRing_pop_ok (h : rbPop N ch r = .ok v q) : runRing N ch (.pop :: calls) r =
    (runRing N ch calls q).map (fun hist => { hist with popped := v :: hist.popped }) := by simp only [runRing, h]

theorem runRing_pop_bufferEmpty (h : rbPop N ch r = .bufferEmpty) :
    runRing N ch (.pop :: calls) r = runRing N ch calls r := by simp only [runRing, h]

/-! ### The FIFO law (R88) -/

/-- Every sequence of calls runs, and what was queued followed by what was pushed is what was popped followed by what stays queued. -/
theorem Ring.Aligned.runRing_balance (h : r.Aligned N) (ch : Channel) (calls : List RingCall) :
    ∃ hist, runRing N ch calls r = .ok hist ∧ r.queue N ++ hist.pushed = hist.popped ++ hist.final.queue N := by
  induction calls generalizing r with
  | nil => exact ⟨_, rfl, List.append_nil _⟩
  | cons call calls ih =>
    cases call with
    | push v =>
      obtain hfull | ⟨q, hpush⟩ := h.push_cases ch v
      · rw [runRing_push_bufferFull hfull]
        exact ih h
      · obtain ⟨hist, hrun, hbalance⟩ := ih (h.push hpush)
        refine ⟨_, by rw [runRing_push_ok hpush, hrun]; rfl, ?_⟩
        rw [← hbalance, h.queue_push hpush, List.append_assoc, List.singleton_append]
    | pop =>
      obtain hempty | ⟨v, q, hpop⟩ := h.pop_cases ch
      · rw [runRing_pop_bufferEmpty hempty]
        exact ih h
      · obtain ⟨hist, hrun, hbalance⟩ := ih (h.pop hpop)
        refine ⟨_, by rw [runRing_pop_ok hpop, hrun]; rfl, ?_⟩
        rw [queue_pop hpop, List.cons_append, hbalance, List.cons_append]

/-- Settles O21: the balance, by induction over the calls; the width of the pushed values plays no part in it. -/
theorem ringFifoLaw : Obligations.RingFifoLaw := by
  intro c ch calls r h _
  obtain ⟨hist, hrun, hbalance⟩ := h.aligned.runRing_balance ch calls
  refine ⟨hist, hrun, hbalance, fun hcnt => ⟨hist.final.queue c.N, ?_⟩⟩
  rw [← hbalance, queue_of_cnt_zero hcnt, List.nil_append]

/-! ### RB.PUSH and RB.POP (R81, R82) -/

/-- Settles O17: a push with room left is one write at the write index, which no live index is. -/
theorem pushStoresAtTheWriteIndex : Obligations.PushStoresAtTheWriteIndex := by
  intro c ch v r h
  refine ⟨rbPush_bufferFull.2, fun hroom => ⟨_, h.aligned.push_eq hroom, ?_⟩⟩
  exact ⟨Memory.read_write_same _ _ _, fun _ hj => Memory.read_write_of_ne hj, rfl, rfl, rfl,
    rbEmpty_eq_false_iff.2 (Nat.succ_ne_zero _), rbFull_iff, fun _ hk => h.aligned.live_ne_wr hroom hk⟩

/-- Settles O18: a pop of a ring buffer that is not empty succeeds, and leaves it room. -/
theorem popReadsAtTheReadIndex : Obligations.PopReadsAtTheReadIndex := by
  intro c ch r h
  refine ⟨rbPop_bufferEmpty.2, fun hcnt => ?_⟩
  obtain ⟨v, q, hpop⟩ := h.aligned.exists_pop (ch := ch) hcnt
  refine ⟨v, q, hpop, ?_⟩
  obtain ⟨-, -, hread, rfl⟩ := rbPop_ok hpop
  have hroom : r.cnt - 1 ≠ c.N := by
    have := h.aligned.cnt_le
    omega
  exact ⟨hread, rfl, rfl, rfl, rfl, rbFull_eq_false_iff.2 hroom, rbEmpty_iff⟩

/-! ### The capacity law (R87) -/

/-- Pushes for which there is room all succeed and append their values to the queue. -/
theorem Ring.Aligned.runRing_pushes (h : r.Aligned N) (ch : Channel) (vs : List Element) (hroom : r.cnt + vs.length ≤ N) :
    ∃ full, runRing N ch (vs.map .push) r = .ok { pushed := vs, popped := [], final := full } ∧
      full.Aligned N ∧ full.queue N = r.queue N ++ vs := by
  induction vs generalizing r with
  | nil => exact ⟨r, rfl, h, (List.append_nil _).symm⟩
  | cons v vs ih =>
    rw [List.length_cons] at hroom
    have hpush := h.push_eq (ch := ch) (v := v) (by omega)
    obtain ⟨full, hrun, hfull, hqueue⟩ := ih (h.push hpush) (by simp only; omega)
    refine ⟨full, by rw [List.map_cons, runRing_push_ok hpush, hrun]; rfl, hfull, ?_⟩
    rw [hqueue, h.queue_push hpush, List.append_assoc, List.singleton_append]

/-- As many pops as there are elements all succeed, return the queue in order, and leave the ring buffer empty. -/
theorem Ring.Aligned.runRing_pops (h : r.Aligned N) (ch : Channel) {n : Nat} (hn : r.cnt = n) :
    ∃ emptied, runRing N ch (List.replicate n .pop) r = .ok { pushed := [], popped := r.queue N, final := emptied } ∧
      emptied.cnt = 0 := by
  induction n generalizing r with
  | zero => exact ⟨r, by rw [queue_of_cnt_zero hn]; rfl, hn⟩
  | succ n ih =>
    obtain ⟨v, q, hpop⟩ := h.exists_pop (ch := ch) (hn ▸ Nat.succ_ne_zero n)
    have hq : q.cnt = n := by
      obtain ⟨-, -, -, rfl⟩ := rbPop_ok hpop
      exact Nat.sub_eq_of_eq_add hn
    obtain ⟨emptied, hrun, hemptied⟩ := ih (h.pop hpop) hq
    exact ⟨emptied, by rw [List.replicate_succ, runRing_pop_ok hpop, hrun, queue_pop hpop]; rfl, hemptied⟩

/-- Settles O20: the pushes make the queue their values, so it has length `N`, and the pops return it. -/
theorem ringCapacityLaw : Obligations.RingCapacityLaw := by
  intro c ch r vs v h hempty hlength _
  obtain ⟨full, hpushes, hfull, hqueue⟩ := h.aligned.runRing_pushes ch vs (by omega)
  rw [queue_of_cnt_zero hempty, List.nil_append] at hqueue
  have hcnt : full.cnt = c.N := by rw [← hfull.length_queue, hqueue, hlength]
  obtain ⟨emptied, hpops, hemptied⟩ := hfull.runRing_pops ch hcnt
  rw [hqueue] at hpops
  exact ⟨full, emptied, hpushes, rbPush_bufferFull.2 hcnt, hpops, rbPop_bufferEmpty.2 hemptied⟩

/-! ### The reset law (R89) -/

theorem rbEmpty_rbReset (r : Ring) : rbEmpty (rbReset r) = true := rfl

theorem rbFull_rbReset (r : Ring) (hN : 1 ≤ N) : rbFull N (rbReset r) = false := rbFull_eq_false_iff.2 (Nat.ne_of_lt hN)

/-- RST leaves in its channel the ring buffer RB.RESET makes of it (R104). -/
theorem execRst_ring_same {s t : State} {c : Channel} (h : execRst c s = .next t) : t.ring c = rbReset (s.ring c) := by
  obtain rfl := respond_next h
  simp [resetDriverOf_ring]

/-- EMPTY of an empty ring buffer answers 1 (R105). -/
theorem execEmpty_of_empty {s : State} {c : Channel} (h : rbEmpty (s.ring c) = true) :
    execEmpty c s = .next (s.emit (.response 0x00000001)) := by
  have hanswer : responseWord .ok (answerData true) = 0x00000001 := by decide
  rw [execEmpty, h, respond, hanswer]

/-- Settles O22: RST makes the ring buffer empty, so EMPTY after it answers 1. -/
theorem resetThenEmpty : Obligations.ResetThenEmpty := by
  refine ⟨fun N r hN => ⟨rbEmpty_rbReset r, rbFull_rbReset r hN⟩, fun s c => ?_⟩
  obtain ⟨t, hrst⟩ : ∃ t, execRst c s = .next t := ⟨_, rfl⟩
  have hempty : rbEmpty (t.ring c) = true := by rw [execRst_ring_same hrst, rbEmpty_rbReset]
  exact ⟨t, _, hrst, execEmpty_of_empty hempty, newOutputs_of_out_eq (State.emit_out t _)⟩

end Sys2Proof.Machine
end

section
/-!
PROOFS. The Skip-Flag Vector (41_skip_flag_vector.md R92, R93, R95): which bits one call changes, and what a sequence of calls does to the
pending decisions it starts from.
-/
namespace Sys2Proof.Machine

variable {V : Nat} {idleKeep keep : Bool} {f g : SkipFlags} {calls : List SkipCall} {hist : SkipHistory}

/-! ### One call (R92, R93) -/

/-- SF.RECORD of a full vector is the fault of R92. -/
theorem sfRecord_of_le_pos (h : V ≤ f.pos) : sfRecord V keep f = .error .recordOverflow := if_neg (Nat.not_lt.2 h)

/-- Settles O23, from the equation of each micro-operation at either end of its range. -/
theorem recordAndConsumeBits : Obligations.RecordAndConsumeBits := by
  refine ⟨fun V keep f hroom => ?_, fun V keep f hfull => sfRecord_of_le_pos hfull.ge,
    fun idleKeep f hidle => sfConsume_idle hidle, fun idleKeep f hpending => ?_⟩
  · exact ⟨_, sfRecord_of_pos_lt hroom, rfl, testBit_writeBit f.vec f.pos keep⟩
  · rw [sfConsume_pending hpending]
    refine ⟨rfl, rfl, fun j => ?_⟩
    rw [Nat.testBit_shiftRight, Nat.add_comm]

/-! ### One call of a sequence (R95) -/

theorem runSkip_record_ok (h : sfRecord V keep f = .ok g) : runSkip V idleKeep (.record keep :: calls) f =
    (runSkip V idleKeep calls g).map (fun hist => { hist with recorded := keep :: hist.recorded }) := by simp only [runSkip, h]

theorem runSkip_record_error {e : Fault} (h : sfRecord V keep f = .error e) :
    runSkip V idleKeep (.record keep :: calls) f = .error e := by simp only [runSkip, h]

theorem runSkip_consume_idle (h : f.pos = 0) : runSkip V idleKeep (.consume :: calls) f = runSkip V idleKeep calls f := by
  simp [runSkip, noDecision, sfConsume_idle h, h]

theorem runSkip_consume_pending (h : f.pos ≠ 0) : runSkip V idleKeep (.consume :: calls) f =
    (runSkip V idleKeep calls (sfConsume idleKeep f).2).map
      (fun hist => { hist with consumed := (sfConsume idleKeep f).1 :: hist.consumed }) := by simp [runSkip, noDecision, h]

/-- A mapped computation succeeds only where the computation does. -/
theorem exists_ok_of_map_ok {ε α β : Type} {m : α → β} {x : Except ε α} {b : β} (h : x.map m = .ok b) :
    ∃ a, x = .ok a ∧ m a = b := by
  cases x with
  | error e => cases h
  | ok a => exact ⟨a, rfl, Except.ok.inj h⟩

/-- Everything a sequence that begins with SF.RECORD can do when it runs. -/
theorem runSkip_record_cases (h : runSkip V idleKeep (.record keep :: calls) f = .ok hist) :
    ∃ g rest, sfRecord V keep f = .ok g ∧ runSkip V idleKeep calls g = .ok rest ∧
      hist = { rest with recorded := keep :: rest.recorded } := by
  cases hrec : sfRecord V keep f with
  | error e =>
    rw [runSkip_record_error hrec] at h
    cases h
  | ok g =>
    rw [runSkip_record_ok hrec] at h
    obtain ⟨rest, hrest, rfl⟩ := exists_ok_of_map_ok h
    exact ⟨g, rest, rfl, hrest, rfl⟩

/-- Everything a sequence that begins with SF.CONSUME can do when it runs. -/
theorem runSkip_consume_cases (h : runSkip V idleKeep (.consume :: calls) f = .ok hist) :
    (f.pos = 0 ∧ runSkip V idleKeep calls f = .ok hist) ∨
    (f.pos ≠ 0 ∧ ∃ rest, runSkip V idleKeep calls (sfConsume idleKeep f).2 = .ok rest ∧
      hist = { rest with consumed := (sfConsume idleKeep f).1 :: rest.consumed }) := by
  by_cases hpos : f.pos = 0
  · rw [runSkip_consume_idle hpos] at h
    exact .inl ⟨hpos, h⟩
  · rw [runSkip_consume_pending hpos] at h
    obtain ⟨rest, hrest, rfl⟩ := exists_ok_of_map_ok h
    exact .inr ⟨hpos, rest, hrest, rfl⟩

/-! ### The alignment law (R95) -/

/-- A sequence whose records fit above the pending bits runs, wherever its SF.CONSUME calls stand: none of them raises `pos`. -/
theorem runSkip_runs (hroom : f.pos + calls.countP (fun k => k != .consume) ≤ V) :
    ∃ hist, runSkip V idleKeep calls f = .ok hist := by
  induction calls generalizing f with
  | nil => exact ⟨_, rfl⟩
  | cons call calls ih =>
    cases call with
    | record keep =>
      rw [List.countP_cons_of_pos rfl] at hroom
      have hrec := sfRecord_of_pos_lt (V := V) (keep := keep) (f := f) (by omega)
      obtain ⟨rest, hrest⟩ := ih (by rw [record_pos hrec]; omega)
      exact ⟨_, by rw [runSkip_record_ok hrec, hrest]; rfl⟩
    | consume =>
      rw [List.countP_cons_of_neg (by decide)] at hroom
      by_cases hpos : f.pos = 0
      · rw [runSkip_consume_idle hpos]
        exact ih hroom
      · obtain ⟨rest, hrest⟩ := ih (f := (sfConsume idleKeep f).2) (by rw [consume_pos]; omega)
        exact ⟨_, by rw [runSkip_consume_pending hpos, hrest]; rfl⟩

/-- What was pending followed by what was recorded is what was consumed followed by what stays pending. -/
theorem runSkip_balance (hrun : runSkip V idleKeep calls f = .ok hist) :
    f.decisions ++ hist.recorded = hist.consumed ++ hist.final.decisions := by
  induction calls generalizing f hist with
  | nil =>
    obtain rfl := Except.ok.inj hrun
    exact List.append_nil _
  | cons call calls ih =>
    cases call with
    | record keep =>
      obtain ⟨g, rest, hrec, hrest, rfl⟩ := runSkip_record_cases hrun
      rw [← ih hrest, decisions_record hrec, List.append_assoc, List.singleton_append]
    | consume =>
      obtain ⟨-, hrest⟩ | ⟨hpos, rest, hrest, rfl⟩ := runSkip_consume_cases hrun
      · exact ih hrest
      · rw [decisions_consume idleKeep hpos, List.cons_append, ih hrest, List.cons_append]

/-- Nothing is pending where `pos = 0`. -/
theorem decisions_of_pos_zero (h : f.pos = 0) : f.decisions = [] := by
  rw [← List.length_eq_zero_iff, length_decisions, h]

/-- Settles O25: the balance, by induction over the calls; from an empty vector it says what was recorded. -/
theorem skipFlagAlignmentLaw : Obligations.SkipFlagAlignmentLaw := by
  refine fun V idleKeep calls f => ⟨runSkip_runs, fun hist hrun => ⟨runSkip_balance hrun, fun hpos => ?_⟩⟩
  have hbalance := runSkip_balance hrun
  rw [decisions_of_pos_zero hpos, List.nil_append] at hbalance
  exact ⟨hist.final.decisions, hbalance.symm⟩

end Sys2Proof.Machine
end

section
/-!
PROOFS. What an operation adds to the records and that it leaves the schedule alone (00_scope.md R14, 42_channel_commands.md R99, R112): a
command appends one response, an event appends no response. Stated once for each part an operation is made of.
-/
namespace Sys2Proof.Machine

/-- The records `o` are appended, and the schedule stays as it was. -/
structure Appends (o : List Output) (s t : State) : Prop where
  schedule : t.schedule = s.schedule
  out : t.out = s.out ++ o

variable {s t u : State} {o o' : List Output} {p : Peripheral} {v rx : Element} {keep : Bool} {i : Instr}

theorem Appends.refl (s : State) : Appends [] s s := ⟨rfl, (List.append_nil _).symm⟩

theorem Appends.trans (h : Appends o s t) (h' : Appends o' t u) : Appends (o ++ o') s u :=
  ⟨h'.schedule.trans h.schedule, by rw [h'.out, h.out, List.append_assoc]⟩

theorem Appends.emit (s : State) (x : Output) : Appends [x] s (s.emit x) := ⟨rfl, rfl⟩

theorem Appends.setRing (h : Appends o s t) (c : Channel) (r : Ring) : Appends o s (t.setRing c r) :=
  ⟨by simpa using h.schedule, by simpa using h.out⟩

theorem Appends.setDriver (h : Appends o s t) (p : Peripheral) (d : Driver) : Appends o s (t.setDriver p d) :=
  ⟨by simpa using h.schedule, by simpa using h.out⟩

theorem Appends.setSkip (h : Appends o s t) (f : SkipFlags) : Appends o s (t.setSkip f) := ⟨h.schedule, h.out⟩

theorem Appends.newOutputs (h : Appends o s t) : newOutputs s t = o := newOutputs_of_out_eq h.out

/-! ### The parts of an operation -/

theorem enqueue_appends (h : enqueue p v s = .accepted t) : Appends [] s t := by
  obtain ⟨-, rfl⟩ | ⟨-, r, -, rfl⟩ := enqueue_accepted h
  · exact (Appends.refl s).setDriver p _
  · exact ((Appends.refl s).setRing _ r).setDriver p _

theorem resetDriverOf_appends (c : Channel) (s : State) : Appends [] s (resetDriverOf c s) := by
  cases c with
  | uartRx | spiRx => exact .refl s
  | uartTx => exact (Appends.refl s).setDriver .uart _
  | spiTx => exact ((Appends.refl s).setDriver .spi _).setSkip _

theorem harvest_appends (h : harvest p keep rx s = .ok t) : Appends [] s t := by
  obtain ⟨-, r, -, rfl⟩ | ⟨-, rfl⟩ := harvest_ok h
  · exact (Appends.refl s).setRing _ r
  · exact .refl _

theorem refill_appends (h : refill p s = .ok t) : Appends [] s t := by
  obtain ⟨v, r, -, rfl⟩ | ⟨-, rfl⟩ := refill_ok h
  · exact ((Appends.refl s).setRing _ r).setDriver p _
  · exact (Appends.refl s).setDriver p _

/-- Records of which none is a response are appended. -/
def AppendsNoResponse (s t : State) : Prop := ∃ o, Appends o s t ∧ responsesOf o = []

theorem Appends.noResponse (h : Appends [] s t) : AppendsNoResponse s t := ⟨[], h, rfl⟩

theorem responsesOf_append (o o' : List Output) : responsesOf (o ++ o') = responsesOf o ++ responsesOf o' :=
  List.filterMap_append

theorem AppendsNoResponse.trans : AppendsNoResponse s t → AppendsNoResponse t u → AppendsNoResponse s u := by
  rintro ⟨o, h, ho⟩ ⟨o', h', ho'⟩
  exact ⟨o ++ o', h.trans h', by rw [responsesOf_append, ho, ho', List.append_nil]⟩

theorem recordSentU_appendsNoResponse (s : State) : AppendsNoResponse s (recordSentU s) := by
  unfold recordSentU
  split
  · exact ⟨_, .emit s _, rfl⟩
  · exact (Appends.refl s).noResponse

theorem recordSentS_appendsNoResponse (s : State) : AppendsNoResponse s (recordSentS s) := by
  unfold recordSentS
  split
  · exact ⟨_, .emit s _, rfl⟩
  · exact ⟨_, ⟨rfl, rfl⟩, rfl⟩

theorem fireHook_appendsNoResponse (p : Peripheral) (s : State) : AppendsNoResponse s (fireHook p s) := by
  unfold fireHook
  split
  · exact ⟨_, .emit s _, rfl⟩
  · exact (Appends.refl s).noResponse

theorem finishExchange_appendsNoResponse (h : finishExchange p keep rx s = .next t) : AppendsNoResponse s t := by
  obtain ⟨a, b, hharvest, hrefill, rfl⟩ := finishExchange_next h
  exact ((harvest_appends hharvest).trans (refill_appends hrefill)).noResponse.trans (fireHook_appendsNoResponse p b)

/-! ### Events and commands -/

/-- An event answers nothing (R14). -/
theorem event_appendsNoResponse (hi : eventOf i ≠ none) (h : exec i s = .next t) : AppendsNoResponse s t := by
  cases i with
  | xchgU rx =>
    exact (recordSentU_appendsNoResponse s).trans (finishExchange_appendsNoResponse ((execXchgU_eq rx s).symm.trans h))
  | xchgS rx =>
    obtain ⟨o, hsent, ho⟩ := recordSentS_appendsNoResponse s
    have hconsumed : AppendsNoResponse s _ := ⟨o, hsent.setSkip (sfConsume s.cfg.idleKeep s.skip).2, ho⟩
    exact hconsumed.trans (finishExchange_appendsNoResponse ((execXchgS_eq rx s).symm.trans h))
  | enqU _ | enqS _ _ | deqU | deqS | rst _ | empty _ | full _ | hookset _ | hookclr _ => exact absurd rfl hi

/-- Everything a command can do to the records: it answers `Ok`, having recorded nothing else, or it fails and changes nothing but the
records (R99, R112). -/
theorem command_next (hi : eventOf i = none) (h : exec i s = .next t) :
    (∃ u data, Appends [] s u ∧ t = u.emit (.response (responseWord .ok data))) ∨
    ∃ st, t = s.emit (.response (responseWord st 0)) := by
  have hsame := Appends.refl s
  cases i with
  | enqU value =>
    obtain ⟨u, henq, ht⟩ | ⟨-, ht⟩ := execEnqU_next h
    · exact .inl ⟨u, 0, enqueue_appends henq, ht⟩
    · exact .inr ⟨_, ht⟩
  | enqS value keep =>
    obtain ⟨u, f, henq, -, ht⟩ | ⟨-, ht⟩ := execEnqS_next h
    · exact .inl ⟨u.setSkip f, 0, (enqueue_appends henq).setSkip f, ht⟩
    · exact .inr ⟨_, ht⟩
  | deqU | deqS =>
    obtain ⟨v, r, -, ht⟩ | ⟨-, ht⟩ := dequeue_next h
    · exact .inl ⟨_, v, hsame.setRing _ r, ht⟩
    · exact .inr ⟨_, ht⟩
  | rst c => exact .inl ⟨_, 0, (hsame.setRing c _).trans (resetDriverOf_appends c _), respond_next h⟩
  | empty c | full c => exact .inl ⟨s, _, hsame, respond_next h⟩
  | hookset p | hookclr p => exact .inl ⟨_, 0, hsame.setDriver p _, respond_next h⟩
  | xchgU _ | xchgS _ => cases hi

/-- A command appends one response and no other record (R99). -/
theorem command_appends_response (hi : eventOf i = none) (h : exec i s = .next t) : ∃ x, Appends [.response x] s t := by
  obtain ⟨u, data, hu, rfl⟩ | ⟨st, rfl⟩ := command_next hi h
  · exact ⟨_, hu.trans (.emit u _)⟩
  · exact ⟨_, .emit s _⟩

/-- Settles O32: an `Ok` answer has status 0, and every other answer is a record appended to the state as it was. -/
theorem rejectedCommandChangesNothing : Obligations.RejectedCommandChangesNothing := by
  intro i s t hi h
  have hcases : (∃ u data, Appends [] s u ∧ t = u.emit (.response (responseWord .ok data))) ∨
      ∃ st, t = s.emit (.response (responseWord st 0)) :=
    h.elim (command_next hi) fun hillegal => .inr ⟨.illegal, raiseStatus_next hillegal⟩
  obtain ⟨u, data, hu, rfl⟩ | ⟨st, rfl⟩ := hcases
  · exact ⟨_, (hu.trans (.emit u _)).out, fun hstatus => absurd (responseStatus_responseWord .ok data) hstatus⟩
  · exact ⟨_, rfl, fun _ => rfl⟩

/-- No operation changes what the environment is to present (R41). -/
theorem exec_schedule (h : exec i s = .next t) : t.schedule = s.schedule := by
  by_cases hi : eventOf i = none
  · obtain ⟨x, hx⟩ := command_appends_response hi h
    exact hx.schedule
  · obtain ⟨o, ho, -⟩ := event_appendsNoResponse hi h
    exact ho.schedule

end Sys2Proof.Machine
end

section
/-!
PROOFS. No run from a safe state stops (42_channel_commands.md R110, 60_exceptions.md R140): the only steps that stop are those at a refused
configuration, at a malformed strobe word, and at a fault of `exec`, and a safe state has none of them.
-/
namespace Sys2Proof.Machine

variable {w : Width} {q : List Period} {s t : State} {x : Word32}

/-! ### Legal stimuli (R73) -/

/-- What is left of a legal period is legal. -/
theorem continuePeriod_legal {p : Period} (hp : p.legal w) (hq : ∀ a ∈ q, a.legal w) : ∀ a ∈ continuePeriod p q, a.legal w := by
  unfold continuePeriod
  split
  · exact hq
  · exact List.forall_mem_cons.2 ⟨hp, hq⟩

/-- From a legal schedule only words that spell events are presented on the strobes, and what is left is legal. -/
theorem takeNext_legal (hq : ∀ a ∈ q, a.legal w) :
    (∀ p x, (takeNext q).1 = .event p x → (decodeStrobe w p x).isSome = true) ∧ ∀ a ∈ (takeNext q).2, a.legal w := by
  induction q with
  | nil => exact ⟨nofun, nofun⟩
  | cons a rest ih =>
    obtain ⟨⟨hspi, huart⟩, hrest⟩ := List.forall_mem_cons.1 hq
    unfold takeNext
    split
    · exact ⟨nofun, hrest⟩
    split
    · next y hy =>
      refine ⟨?_, continuePeriod_legal ⟨nofun, huart⟩ hrest⟩
      rintro _ _ ⟨⟩
      exact hspi y hy
    split
    · next y hy =>
      refine ⟨?_, continuePeriod_legal ⟨hspi, nofun⟩ hrest⟩
      rintro _ _ ⟨⟩
      exact huart y hy
    split
    · exact ⟨nofun, hrest⟩
    · exact ih hrest

/-- Only a strobe word that spells no event of its peripheral is malformed. -/
theorem fetch_malformed (h : fetch s = .malformed x) :
    ∃ p, (takeNext s.schedule).1 = .event p x ∧ decodeStrobe s.cfg.W p x = none := by
  simp only [fetch] at h
  split at h
  · cases h
  · cases h
  · next p y hp =>
    split at h
    · cases h
    · next hnone =>
      obtain rfl : y = x := Fetched.malformed.inj h
      exact ⟨p, hp, hnone⟩
  · split at h <;> cases h

/-- A legal stimulus is never refused. -/
theorem State.legalStimulus.fetch_ne_malformed (h : s.legalStimulus) (x : Word32) : fetch s ≠ .malformed x := by
  intro hfetch
  obtain ⟨p, hp, hnone⟩ := fetch_malformed hfetch
  have hsome := (takeNext_legal h).1 p x hp
  rw [hnone] at hsome
  cases hsome

/-! ### Steps and runs -/

/-- A step leaves the schedule, or what remains of it after the next word is taken. -/
theorem step_schedule (h : step s = .next t) : t.schedule = s.schedule ∨ t.schedule = (takeNext s.schedule).2 := by
  obtain ⟨-, ⟨-, rfl⟩ | ⟨u, hfetch, rfl⟩ | ⟨i, u, hfetch, hexec⟩ | ⟨u, hfetch, rfl⟩⟩ := step_next h
  · exact .inl rfl
  · obtain rfl := fetch_reset hfetch
    exact .inr rfl
  · obtain ⟨rfl, -⟩ := fetch_run hfetch
    exact .inr (exec_schedule hexec)
  · obtain rfl := fetch_illegal hfetch
    exact .inr rfl

/-- A step of a safe state goes on: a legal stimulus is not refused, and every operation completes. -/
theorem State.Safe.step_completes (h : s.Safe) : ∃ t, step s = .next t := by
  obtain ⟨hwf, hlegal⟩ := h
  rw [step_of_fetch hwf.1]
  cases hfetch : fetch s with
  | idle => exact ⟨s, rfl⟩
  | reset u => exact ⟨powerOnReset u, rfl⟩
  | run i u =>
    obtain ⟨rfl, -⟩ := fetch_run hfetch
    exact exec_completes (hwf.setSchedule _) i
  | illegal u => exact ⟨_, rfl⟩
  | malformed x => exact absurd hfetch (hlegal.fetch_ne_malformed x)

/-- Every step keeps a state safe (R44). -/
theorem State.Safe.step (h : s.Safe) (ht : step s = .next t) : t.Safe := by
  obtain ⟨hwf, hlegal⟩ := h
  obtain ⟨ht', hcfg⟩ := stepKeepsWellFormed s t hwf ht
  refine ⟨ht', ?_⟩
  unfold State.legalStimulus
  rw [hcfg]
  obtain hq | hq := step_schedule ht <;> rw [hq]
  · exact hlegal
  · exact (takeNext_legal hlegal).2

/-- Settles O52, by induction over the steps: safety is kept and a safe state has a next one. -/
theorem nothingIsFatal : Obligations.NothingIsFatal := by
  intro k
  induction k with
  | zero => exact fun s h => ⟨s, rfl, h⟩
  | succ k ih =>
    intro s h
    obtain ⟨u, hu⟩ := h.step_completes
    obtain ⟨t, hrun, ht⟩ := ih u (h.step hu)
    exact ⟨t, run_succ_eq_next.2 ⟨u, hu, hrun⟩, ht⟩

end Sys2Proof.Machine
end

section
/-!
PROOFS. The commands one by one (42_channel_commands.md R100 to R109): the word of each, and its next state in full. Both ENQ commands are
one equation of the shared enqueue, both DEQ commands one of the shared dequeue.
-/
namespace Sys2Proof

variable {w : Width} {i : Instr}

/-! ### The words of the commands (R65, R80) -/

/-- At `W = 16` every instruction can be spelled. -/
theorem wellFormed_w16 (i : Instr) : i.wellFormed .w16 = true := by
  cases i with
  | enqU v | enqS v _ | xchgU v | xchgS v => exact decide_eq_true v.isLt
  | deqU | deqS | rst _ | empty _ | full _ | hookset _ | hookclr _ => rfl

theorem encode_injective : Function.Injective encode := fun i j h => by
  have hi := decodeInvertsEncode .w16 i (wellFormed_w16 i)
  rw [h, decodeInvertsEncode .w16 j (wellFormed_w16 j)] at hi
  exact (Option.some.inj hi).symm

/-- The word of a command decodes to it at the widths that can spell it, and to nothing at the others. -/
theorem decodeCommand_encode_eq (hi : Machine.eventOf i = none) :
    decodeCommand w (encode i) = if i.wellFormed w then some i else none := by
  split
  · next hw => exact Machine.decodeCommand_encode hi hw
  · next hw =>
    refine Option.eq_none_iff_forall_ne_some.2 fun j hj => hw ?_
    obtain ⟨hx, hwj, -⟩ := decodeCommand_eq_some_iff.1 hj
    exact encode_injective hx ▸ hwj

theorem encode_enqU (v : Element) : encode (.enqU v) = 0x01100000 ||| v.setWidth 32 :=
  congrArg (· ||| v.setWidth 32) (by decide)

theorem encode_enqS (v : Element) (keep : Bool) :
    encode (.enqS v keep) = 0x01300000 ||| (BitVec.ofBool keep).setWidth 32 <<< 16 ||| v.setWidth 32 :=
  congrArg (· ||| (BitVec.ofBool keep).setWidth 32 <<< 16 ||| v.setWidth 32) (by decide)

theorem encode_rst (c : Channel) : encode (.rst c) = 0x03000000 ||| (channelNumber c).setWidth 32 <<< 20 := by
  cases c <;> decide

theorem encode_empty (c : Channel) : encode (.empty c) = 0x04000000 ||| (channelNumber c).setWidth 32 <<< 20 := by
  cases c <;> decide

theorem encode_full (c : Channel) : encode (.full c) = 0x05000000 ||| (channelNumber c).setWidth 32 <<< 20 := by
  cases c <;> decide

theorem encode_hookset (p : Peripheral) : encode (.hookset p) = 0x06000000 ||| (peripheralNumber p).setWidth 32 <<< 20 := by
  cases p <;> decide

theorem encode_hookclr (p : Peripheral) : encode (.hookclr p) = 0x07000000 ||| (peripheralNumber p).setWidth 32 <<< 20 := by
  cases p <;> decide

namespace Machine

variable {s t : State} {p : Peripheral} {v : Element} {N : Nat} {c : Channel} {r : Ring}

/-! ### Responses (R70, R71) -/

/-- The word of an `Ok` answer is its data. -/
theorem responseWord_ok (data : Element) : responseWord .ok data = data.setWidth 32 := by
  simp [responseWord, statusCode]

theorem responseWord_bufferFull : responseWord .bufferFull 0 = 0x00010000 :=
  have ⟨_, _, hfull, _⟩ := responseWordFields
  hfull

theorem responseWord_bufferEmpty : responseWord .bufferEmpty 0 = 0x00020000 :=
  have ⟨_, _, _, hempty, _⟩ := responseWordFields
  hempty

theorem responseWord_illegal : responseWord .illegal 0 = 0x00030000 :=
  have ⟨_, _, _, _, hillegal⟩ := responseWordFields
  hillegal

/-- The word that answers EMPTY and FULL. -/
theorem responseWord_answerData (b : Bool) :
    responseWord .ok (answerData b) = if b then 0x00000001 else 0x00000000 := by cases b <;> rfl

/-! ### A word that spells no command (R109) -/

/-- Settles O10: the word is taken from the schedule and answered. -/
theorem illegalWordIsAnsweredAndChangesNothing : Obligations.IllegalWordIsAnsweredAndChangesNothing := by
  intro s x q hc hnext hx
  have hfetch : fetch s = .illegal (s.setSchedule q) := by simp only [fetch, hnext, hx]
  rw [step_of_fetch hc, hfetch]
  change respond .illegal 0 (s.setSchedule q) = _
  rw [respond, responseWord_illegal]
  rfl

/-! ### ENQ (R100, R101) -/

/-- The fast path is that of an Idle driver with nothing queued. -/
theorem fastPath_iff {d : Driver} {tx : Ring} : fastPath d tx = true ↔ d.loaded = false ∧ tx.cnt = 0 := by
  simp [fastPath, rbEmpty]

theorem fastPath_eq_false_iff {d : Driver} {tx : Ring} : fastPath d tx = false ↔ ¬(d.loaded = false ∧ tx.cnt = 0) := by
  rw [← fastPath_iff, Bool.not_eq_true]

/-- A push with room left stores at a write index in range. -/
theorem rbPush_of_room (hroom : r.cnt ≠ N) (hwr : r.wr < N) : rbPush N c v r =
    .ok { r with buf := r.buf.write r.wr v, wr := nextIndex N r.wr, cnt := r.cnt + 1 } := by
  simp [rbPush, rbFull, hroom, hwr]

/-- An enqueue is refused when the fast path is not taken and the ring buffer is full. -/
theorem enqueue_of_full (hslow : fastPath (s.driver p) (s.ring (txOf p)) = false) (hfull : (s.ring (txOf p)).cnt = s.cfg.N) :
    enqueue p v s = .bufferFull := by
  simp only [enqueue, hslow, rbPush_bufferFull.2 hfull, Bool.false_eq_true, if_false]

theorem execEnqU_of_accepted (h : enqueue .uart v s = .accepted t) :
    execEnqU v s = .next (t.emit (.response 0x00000000)) := by
  simp only [execEnqU, h, respond, responseWord_ok]
  rfl

theorem execEnqU_of_bufferFull (h : enqueue .uart v s = .bufferFull) :
    execEnqU v s = .next (s.emit (.response 0x00010000)) := by
  simp only [execEnqU, h, raiseStatus, respond, responseWord_bufferFull]

theorem execEnqS_of_accepted {keep : Bool} {f : SkipFlags} (h : enqueue .spi v s = .accepted t)
    (hrec : sfRecord t.cfg.V keep t.skip = .ok f) :
    execEnqS v keep s = .next ((t.setSkip f).emit (.response 0x00000000)) := by
  simp only [execEnqS, h, hrec, respond, responseWord_ok]
  rfl

theorem execEnqS_of_bufferFull {keep : Bool} (h : enqueue .spi v s = .bufferFull) :
    execEnqS v keep s = .next (s.emit (.response 0x00010000)) := by
  simp only [execEnqS, h, raiseStatus, respond, responseWord_bufferFull]

/-- Settles O26, ending by ending of the enqueue. -/
theorem enqUStagesQueuesOrReportsFull : Obligations.EnqUStagesQueuesOrReportsFull := by
  refine ⟨fun w v => ?_, fun s v hwr => ?_⟩
  · rw [← encode_enqU, decodeCommand_encode_eq rfl]
    simp only [Instr.wellFormed, Width.fits, decide_eq_true_eq]
  · change execEnqU v s = _
    split_ifs with hidle hfull
    · exact execEnqU_of_accepted (enqueue_of_fastPath (p := .uart) (fastPath_iff.2 hidle))
    all_goals have hslow := fastPath_eq_false_iff.2 hidle
    · exact execEnqU_of_bufferFull (enqueue_of_full (p := .uart) hslow hfull)
    · exact execEnqU_of_accepted (enqueue_of_push (p := .uart) hslow (rbPush_of_room hfull hwr))

/-- Settles O27, ending by ending of the enqueue; both that accept leave `pos` and `V` as they were for SF.RECORD. -/
theorem enqSStagesQueuesOrReportsFull : Obligations.EnqSStagesQueuesOrReportsFull := by
  refine ⟨fun w v keep => ?_, fun s v keep hwr hpos => ?_⟩
  · rw [← encode_enqS, decodeCommand_encode_eq rfl]
    simp only [Instr.wellFormed, Width.fits, decide_eq_true_eq]
  · have hrec := sfRecord_of_pos_lt (keep := keep) hpos
    change execEnqS v keep s = _
    split_ifs with hidle hfull
    · exact execEnqS_of_accepted (enqueue_of_fastPath (p := .spi) (fastPath_iff.2 hidle)) hrec
    all_goals have hslow := fastPath_eq_false_iff.2 hidle
    · exact execEnqS_of_bufferFull (enqueue_of_full (p := .spi) hslow hfull)
    · exact execEnqS_of_accepted (enqueue_of_push (p := .spi) hslow (rbPush_of_room hfull hwr)) hrec

/-! ### DEQ (R102, R103) -/

/-- A pop returns the element at a read index in range. -/
theorem rbPop_of_read (hcnt : r.cnt ≠ 0) (hrd : r.rd < N) (hread : r.buf.read r.rd = some v) :
    rbPop N c r = .ok v { r with rd := nextIndex N r.rd, cnt := r.cnt - 1 } := by
  simp [rbPop, rbEmpty, hcnt, hrd, hread]

/-- The two endings of a dequeue. -/
theorem dequeue_eq (h : (s.ring (rxOf p)).cnt ≠ 0 →
      (s.ring (rxOf p)).rd < s.cfg.N ∧ (s.ring (rxOf p)).buf.read (s.ring (rxOf p)).rd = some v) :
    dequeue p s =
      if (s.ring (rxOf p)).cnt = 0 then .next (s.emit (.response 0x00020000))
      else .next ((s.setRing (rxOf p) { s.ring (rxOf p) with
        rd := nextIndex s.cfg.N (s.ring (rxOf p)).rd
        cnt := (s.ring (rxOf p)).cnt - 1 }).emit (.response (v.setWidth 32))) := by
  split_ifs with hempty
  · simp only [dequeue, rbPop_bufferEmpty.2 hempty, raiseStatus, respond, responseWord_bufferEmpty]
  · obtain ⟨hrd, hread⟩ := h hempty
    simp only [dequeue, rbPop_of_read hempty hrd hread, respond, responseWord_ok]

/-- Settles O28: both commands are the shared dequeue. -/
theorem dequeueAnswersTheOldestElement : Obligations.DequeueAnswersTheOldestElement := by
  refine ⟨fun w => ⟨?_, ?_⟩, fun s v h => dequeue_eq (p := .uart) h, fun s v h => dequeue_eq (p := .spi) h⟩
  · exact decodeCommand_encode (i := .deqU) rfl rfl
  · exact decodeCommand_encode (i := .deqS) rfl rfl

/-! ### RST, EMPTY, FULL, HOOKSET, HOOKCLR (R104 to R108) -/

/-- Settles O29: the driver and the vector follow the ring buffer of a TX channel only. -/
theorem rstClearsTheChannelAndItsDriver : Obligations.RstClearsTheChannelAndItsDriver := by
  refine ⟨fun w c => ?_, fun s => ?_⟩
  · rw [← encode_rst]
    exact decodeCommand_encode rfl rfl
  · simp only [exec, execRst, respond, responseWord_ok]
    exact ⟨rfl, rfl, rfl, rfl⟩

/-- Settles O30: each answer is the flag of the occupancy. -/
theorem emptyAndFullAnswerFromTheOccupancy : Obligations.EmptyAndFullAnswerFromTheOccupancy := by
  refine ⟨fun w c => ⟨?_, ?_⟩, fun s c => ⟨?_, ?_⟩⟩
  · rw [← encode_empty]
    exact decodeCommand_encode rfl rfl
  · rw [← encode_full]
    exact decodeCommand_encode rfl rfl
  · simp only [exec, execEmpty, respond, responseWord_answerData, rbEmpty_iff]
    rfl
  · simp only [exec, execFull, respond, responseWord_answerData, rbFull_iff]
    rfl

/-- Settles O31, for each peripheral. -/
theorem hookCommandsWriteTheHookBit : Obligations.HookCommandsWriteTheHookBit := by
  refine ⟨fun w p => ⟨?_, ?_⟩, fun s => ?_⟩
  · rw [← encode_hookset]
    exact decodeCommand_encode rfl rfl
  · rw [← encode_hookclr]
    exact decodeCommand_encode rfl rfl
  · simp only [exec, execHookset, execHookclr, respond, responseWord_ok]
    exact ⟨rfl, rfl, rfl, rfl⟩

end Machine
end Sys2Proof
end

section
/-!
PROOFS. What a TX port answers to ENQ (42_channel_commands.md R106, R111, 70_reset_and_hazards.md R175). The answer is decided by the number
of elements pending at the peripheral, `State.pending`: a port holds `N + 1` of them, one in the slot and `N` in the ring buffer. An
accepted ENQ adds one, and an event of the other peripheral none.
-/
namespace Sys2Proof.Machine

variable {s t : State} {p q : Peripheral} {v : Element} {i : Instr} {is : List Instr}

/-! ### Room at a port (R100, R101, R111) -/

/-- A port with a ring buffer that is not full has room, and only such a port: a full ring buffer stands behind a loaded slot (R35). -/
theorem pending_le_iff (h : s.WF) (p : Peripheral) : s.pending p ≤ s.cfg.N ↔ (s.ring (txOf p)).cnt ≠ s.cfg.N := by
  obtain ⟨hqueues, -⟩ := wf_iff.1 h
  have hN : 1 ≤ s.cfg.N := h.1.1
  have hcnt := (hqueues.ring (txOf p)).aligned.cnt_le
  obtain ⟨-, hidle, -⟩ := hqueues.driver p
  rw [State.pending]
  cases hloaded : (s.driver p).loaded with
  | false => have := hidle hloaded; simp only [Bool.toNat_false]; omega
  | true => simp only [Bool.toNat_true]; omega

/-- A port never holds more than `N + 1` elements. -/
theorem pending_le_succ (h : s.WF) (p : Peripheral) : s.pending p ≤ s.cfg.N + 1 :=
  Nat.add_le_add ((wf_iff.1 h).1.ring (txOf p)).aligned.cnt_le (Bool.toNat_le _)

/-- Nothing is pending at an Idle driver (R34, R35). -/
theorem pending_of_idle (h : s.WF) (hidle : s.fsm p = .idle) : s.pending p = 0 := by
  have hloaded : (s.driver p).loaded = false := by
    by_contra hloaded
    rw [State.fsm, driverState, if_pos (eq_true_of_ne_false hloaded)] at hidle
    split at hidle <;> cases hidle
  obtain ⟨-, hempty, -⟩ := (wf_iff.1 h).1.driver p
  rw [State.pending, hloaded, hempty hloaded, Bool.toNat_false]

/-- The ring buffer of an accepted enqueue was not full (R100, R101). -/
theorem cnt_ne_of_enqueue_accepted (h : enqueue p v s = .accepted t) (hN : 1 ≤ s.cfg.N) : (s.ring (txOf p)).cnt ≠ s.cfg.N := by
  obtain ⟨hfast, -⟩ | ⟨-, r, hpush, -⟩ := enqueue_accepted h
  · obtain ⟨-, hempty⟩ := fastPath_iff.1 hfast
    omega
  · obtain ⟨hroom, -, -⟩ := rbPush_ok hpush
    exact hroom

/-- The ring buffer of a refused enqueue was full (R100, R101). -/
theorem cnt_eq_of_enqueue_bufferFull (h : enqueue p v s = .bufferFull) : (s.ring (txOf p)).cnt = s.cfg.N := by
  simp only [enqueue] at h
  split at h
  · cases h
  · split at h
    · cases h
    · next hpush => exact rbPush_bufferFull.1 hpush
    · cases h

/-! ### One ENQ -/

/-- Everything an ENQ on TX(p) can do, for either peripheral; the vector is the SPI's (R100, R101). -/
theorem exec_enq_next (hi : offeredBy p i = some v) (h : exec i s = .next t) :
    (∃ u f, enqueue p v s = .accepted u ∧ t = (u.setSkip f).emit (.response 0x00000000)) ∨
    (enqueue p v s = .bufferFull ∧ t = s.emit (.response 0x00010000)) := by
  cases i with
  | enqU value =>
    obtain ⟨rfl, rfl⟩ : p = .uart ∧ value = v := by simpa [offeredBy] using hi
    obtain ⟨u, henq, rfl⟩ | ⟨hfull, rfl⟩ := execEnqU_next h
    · exact .inl ⟨u, u.skip, henq, rfl⟩
    · exact .inr ⟨hfull, rfl⟩
  | enqS value keep =>
    obtain ⟨rfl, rfl⟩ : p = .spi ∧ value = v := by simpa [offeredBy] using hi
    obtain ⟨u, f, henq, -, rfl⟩ | ⟨hfull, rfl⟩ := execEnqS_next h
    · exact .inl ⟨u, f, henq, rfl⟩
    · exact .inr ⟨hfull, rfl⟩
  | deqU | deqS | rst _ | empty _ | full _ | hookset _ | hookclr _ | xchgU _ | xchgS _ => cases hi

/-- An ENQ offers an element that fits the width. -/
theorem fits_of_offeredBy {w : Width} (hi : offeredBy p i = some v) (hw : i.wellFormed w = true) : w.fits v = true := by
  cases i with
  | enqU value | enqS value keep =>
    obtain ⟨-, rfl⟩ : _ ∧ value = v := by simpa [offeredBy] using hi
    exact hw
  | deqU | deqS | rst _ | empty _ | full _ | hookset _ | hookclr _ | xchgU _ | xchgS _ => cases hi

/-- An ENQ on a port with room is answered `Ok` and adds one element; on a port that holds `N + 1` it is answered `BufferFull`. -/
theorem enq_answer (hs : s.WF) (hw : i.wellFormed s.cfg.W = true) (hi : offeredBy p i = some v) (h : exec i s = .next t) :
    (s.pending p ≤ s.cfg.N ∧ t.pending p = s.pending p + 1 ∧ Appends [.response 0x00000000] s t) ∨
    (s.pending p = s.cfg.N + 1 ∧ t.pending p = s.pending p ∧ Appends [.response 0x00010000] s t) := by
  obtain ⟨u, f, henq, rfl⟩ | ⟨hfull, rfl⟩ := exec_enq_next hi h
  · have hroom := (pending_le_iff hs p).2 (cnt_ne_of_enqueue_accepted henq hs.1.1)
    have hpending := (enqueue_bringsPendingTo (wf_iff.1 hs).1 (fits_of_offeredBy hi hw) henq).pending
    refine .inl ⟨hroom, by simpa [State.pending] using hpending, ?_⟩
    exact ((enqueue_appends henq).setSkip f).trans (.emit _ _)
  · have hover := mt (pending_le_iff hs p).1 (not_not.2 (cnt_eq_of_enqueue_bufferFull hfull))
    have hle := pending_le_succ hs p
    exact .inr ⟨by omega, by simp [State.pending], .emit s _⟩

/-! ### FULL and ENQ (R106, R175) -/

/-- FULL answers 0 only of a ring buffer with room left. -/
theorem cnt_ne_of_full_answers_zero {c : Channel} (h : exec (.full c) s = .next t)
    (hanswer : newOutputs s t = [.response 0x00000000]) : (s.ring c).cnt ≠ s.cfg.N := by
  intro hcnt
  obtain rfl := respond_next h
  rw [newOutputs_of_out_eq (State.emit_out s _), rbFull_iff.2 hcnt] at hanswer
  exact absurd hanswer (by decide)

/-- Settles O34: FULL saw room, the events put nothing into TX(p), so the ENQ is not refused. -/
theorem notFullGuaranteesTheNextEnqueue : Obligations.NotFullGuaranteesTheNextEnqueue := by
  intro p s a t events i hwf hfull hanswer hevents hrun hi
  have hroom := cnt_ne_of_full_answers_zero hfull hanswer
  obtain rfl := respond_next hfull
  have htx : (t.ring (txOf p)).cnt ≤ (s.ring (txOf p)).cnt := by
    simpa using (events_handlerWrites (p := p) (fun e he => (hevents e he).1) hrun).txCnt
  obtain ⟨ht, hcfg⟩ := runInstrs_wf (hwf.emit _) (fun e he => (hevents e he).2) hrun
  obtain ⟨v, hv⟩ := Option.ne_none_iff_exists'.1 hi
  obtain ⟨u, hu⟩ := exec_completes ht i
  refine ⟨u, hu, ?_⟩
  obtain ⟨b, f, henq, rfl⟩ | ⟨hrefused, -⟩ := exec_enq_next hv hu
  · exact (((enqueue_appends henq).setSkip f).trans (.emit _ _)).newOutputs
  · have hcnt := cnt_eq_of_enqueue_bufferFull hrefused
    have hle := ((wf_iff.1 hwf).1.ring (txOf p)).aligned.cnt_le
    rw [hcfg] at hcnt
    simp only [State.emit_cfg] at hcnt
    omega

/-! ### The port among events of the other peripheral (R111) -/

/-- An event of one peripheral changes only the part of the state that belongs to it. -/
theorem event_next_graft (hi : eventOf i = some q) (h : exec i s = .next t) : ∃ a, t = s.graft q a := by
  have hgraft := event_graft hi s s.clearOut
  rw [State.graft_clearOut, h] at hgraft
  cases ha : exec i s.clearOut with
  | next a => exact ⟨a, Host.Outcome.next.inj (hgraft.trans (congrArg _ ha))⟩
  | fault f => rw [ha] at hgraft; cases hgraft
  | refused r => rw [ha] at hgraft; cases hgraft

/-- An event of the other peripheral adds nothing at a port and takes nothing from it. -/
theorem event_pending_other (hi : eventOf i = some q) (hpq : q ≠ p) (h : exec i s = .next t) : t.pending p = s.pending p := by
  obtain ⟨a, rfl⟩ := event_next_graft hi h
  cases p with
  | uart =>
    cases q with
    | uart => exact absurd rfl hpq
    | spi => rfl
  | spi =>
    cases q with
    | uart => rfl
    | spi => exact absurd rfl hpq

/-- An event offers nothing. -/
theorem offeredBy_of_event (hi : eventOf i ≠ none) : offeredBy p i = none := by
  cases i with
  | xchgU _ | xchgS _ => rfl
  | enqU _ | enqS _ _ | deqU | deqS | rst _ | empty _ | full _ | hookset _ | hookclr _ => exact absurd rfl hi

/-- What a port with room for `room` more elements answers to `n` ENQ commands in a row (R111). -/
def portAnswers : (room n : Nat) → List Word32
  | _, 0 => []
  | 0, n + 1 => 0x00010000 :: portAnswers 0 n
  | room + 1, n + 1 => 0x00000000 :: portAnswers room n

/-- With one ENQ more than there is room, the last one is refused. -/
theorem portAnswers_succ (room : Nat) : portAnswers room (room + 1) = List.replicate room 0x00000000 ++ [0x00010000] := by
  induction room with
  | zero => rfl
  | succ room ih => rw [portAnswers, ih, List.replicate_succ, List.cons_append]

/-- Any sequence of ENQ commands on a port and events of the other peripheral completes; only the ENQ commands are answered, each by the
room that is left. -/
theorem runInstrs_portAnswers (hs : s.WF)
    (his : ∀ i ∈ is, i.wellFormed s.cfg.W = true ∧ (offeredBy p i ≠ none ∨ (eventOf i ≠ none ∧ eventOf i ≠ some p))) :
    ∃ t o, runInstrs is s = some t ∧ Appends o s t ∧
      responsesOf o = portAnswers (s.cfg.N + 1 - s.pending p) (is.countP fun i => (offeredBy p i).isSome) := by
  induction is generalizing s with
  | nil => exact ⟨s, [], rfl, .refl s, rfl⟩
  | cons i is ih =>
    obtain ⟨⟨hw, hi⟩, hrest⟩ := List.forall_mem_cons.1 his
    obtain ⟨u, hu⟩ := exec_completes hs i
    obtain ⟨hwf, hcfg⟩ := exec_wf hs hw hu
    obtain ⟨t, o, hrun, ho, hanswers⟩ := ih hwf (hcfg ▸ hrest)
    rw [hcfg] at hanswers
    have hrun' : runInstrs (i :: is) s = some t := (runInstrs_cons hu).trans hrun
    obtain hoffer | ⟨hevent, hother⟩ := hi
    · obtain ⟨v, hv⟩ := Option.ne_none_iff_exists'.1 hoffer
      rw [List.countP_cons_of_pos (by rw [hv]; rfl)]
      obtain ⟨hroom, hpending, hok⟩ | ⟨hfull, hpending, hrefused⟩ := enq_answer hs hw hv hu
      · refine ⟨t, _, hrun', hok.trans ho, ?_⟩
        rw [responsesOf_append, hanswers, hpending, Nat.succ_sub hroom, Nat.add_sub_add_right]
        rfl
      · refine ⟨t, _, hrun', hrefused.trans ho, ?_⟩
        rw [responsesOf_append, hanswers, hpending, hfull, Nat.sub_self]
        rfl
    · obtain ⟨q, hq⟩ := Option.ne_none_iff_exists'.1 hevent
      have hpq : q ≠ p := fun hqp => hother (hqp ▸ hq)
      obtain ⟨o', ho', hnone⟩ := event_appendsNoResponse hevent hu
      refine ⟨t, _, hrun', ho'.trans ho, ?_⟩
      rw [List.countP_cons_of_neg (by simp [offeredBy_of_event hevent]), responsesOf_append, hnone, hanswers,
        event_pending_other hq hpq hu, List.nil_append]

/-- Settles O54: from Idle the port has room for `N + 1` elements. -/
theorem portCapacityAmongEventsOfTheOtherPeripheral : Obligations.PortCapacityAmongEventsOfTheOtherPeripheral := by
  intro p is s hs hidle his hcount
  obtain ⟨t, o, hrun, ho, hanswers⟩ := runInstrs_portAnswers hs his
  rw [pending_of_idle hs hidle, Nat.sub_zero, hcount, portAnswers_succ] at hanswers
  exact ⟨t, hrun, by rw [ho.newOutputs, hanswers]⟩

/-! ### The port without events (R111) -/

/-- A sequence of commands appends responses and nothing else. -/
theorem commands_append_responses (hi : ∀ i ∈ is, eventOf i = none) (h : runInstrs is s = some t) :
    ∃ xs : List Word32, Appends (xs.map .response) s t := by
  induction is generalizing s with
  | nil => cases h; exact ⟨[], .refl _⟩
  | cons i is ih =>
    obtain ⟨hfirst, hrest⟩ := List.forall_mem_cons.1 hi
    obtain ⟨u, hu, ht⟩ := exec_of_runInstrs_cons h
    obtain ⟨x, hx⟩ := command_appends_response hfirst hu
    obtain ⟨xs, hxs⟩ := ih hrest ht
    exact ⟨x :: xs, hx.trans hxs⟩

theorem responsesOf_map_response (xs : List Word32) : responsesOf (xs.map .response) = xs := by
  simp [responsesOf, List.filterMap_map]

/-- The capacity law of a port for ENQ commands alone: their answers are then all the records. -/
theorem enqs_from_idle (hs : s.WF) (hidle : s.fsm p = .idle)
    (his : ∀ i ∈ is, i.wellFormed s.cfg.W = true ∧ offeredBy p i ≠ none) (hlength : is.length = s.cfg.N + 2) :
    ∃ t, runInstrs is s = some t ∧
      newOutputs s t = List.replicate (s.cfg.N + 1) (.response 0x00000000) ++ [.response 0x00010000] := by
  have hcount : is.countP (fun i => (offeredBy p i).isSome) = s.cfg.N + 2 := by
    rw [← hlength]
    exact List.countP_eq_length.2 fun i hi => Option.isSome_iff_ne_none.2 (his i hi).2
  obtain ⟨t, hrun, hanswers⟩ := portCapacityAmongEventsOfTheOtherPeripheral p is s hs hidle
    (fun i hi => ⟨(his i hi).1, .inl (his i hi).2⟩) hcount
  have hcommands : ∀ i ∈ is, eventOf i = none := fun i hi => by
    by_contra hevent
    exact (his i hi).2 (offeredBy_of_event hevent)
  obtain ⟨xs, hxs⟩ := commands_append_responses hcommands hrun
  rw [hxs.newOutputs, responsesOf_map_response] at hanswers
  refine ⟨t, hrun, ?_⟩
  rw [hxs.newOutputs, hanswers, List.map_append, List.map_replicate, List.map_singleton]

/-- Settles O33: both clauses are the capacity law of a port, for the ENQ commands of its peripheral. -/
theorem portAcceptsCapacityPlusOne : Obligations.PortAcceptsCapacityPlusOne := by
  refine ⟨fun s vs hs hidle hlength hfits => ?_, fun s vs hs hidle hlength hfits => ?_⟩
  · refine enqs_from_idle hs hidle (List.forall_mem_map.2 fun v hv => ⟨hfits v hv, ?_⟩) ((List.length_map _).trans hlength)
    simp [offeredBy]
  · refine enqs_from_idle hs hidle (List.forall_mem_map.2 fun v hv => ⟨hfits v hv, ?_⟩) ((List.length_map _).trans hlength)
    simp [offeredBy]

end Sys2Proof.Machine
end

section
/-!
PROOFS. An operation belongs to one peripheral (43_exchange_driver.md R113, 60_exceptions.md R143): everything of the other one stays as it
was. Among the operations of a peripheral, only ENQ, the event and RST of TX(p) touch what is in flight there (R43).
-/
namespace Sys2Proof.Machine

/-- The driver of the other peripheral stays as it was, and so does the vector with its free values when `p` is the UART. -/
structure KeepsOtherPeripheral (p : Peripheral) (s t : State) : Prop where
  driver : ∀ q, q ≠ p → t.driver q = s.driver q
  skip : p = .uart → t.skip = s.skip
  draws : p = .uart → t.draws = s.draws

variable {s t u : State} {p q : Peripheral} {i : Instr} {v : Element}

/-! ### The other peripheral -/

theorem KeepsOtherPeripheral.refl (p : Peripheral) (s : State) : KeepsOtherPeripheral p s s :=
  ⟨fun _ _ => rfl, fun _ => rfl, fun _ => rfl⟩

theorem KeepsOtherPeripheral.emit (h : KeepsOtherPeripheral p s t) (o : Output) : KeepsOtherPeripheral p s (t.emit o) :=
  ⟨by simpa using h.driver, h.skip, h.draws⟩

theorem KeepsOtherPeripheral.setRing (h : KeepsOtherPeripheral p s t) (c : Channel) (r : Ring) :
    KeepsOtherPeripheral p s (t.setRing c r) :=
  ⟨by simpa using h.driver, by simpa using h.skip, by simpa using h.draws⟩

theorem KeepsOtherPeripheral.setDriver (h : KeepsOtherPeripheral p s t) (d : Driver) :
    KeepsOtherPeripheral p s (t.setDriver p d) := by
  refine ⟨fun q hq => ?_, by simpa using h.skip, by simpa using h.draws⟩
  rw [State.setDriver_driver_of_ne hq, h.driver q hq]

/-- The vector belongs to the SPI. -/
theorem KeepsOtherPeripheral.setSkip (h : KeepsOtherPeripheral .spi s t) (f : SkipFlags) :
    KeepsOtherPeripheral .spi s (t.setSkip f) := ⟨by simpa using h.driver, nofun, nofun⟩

theorem enqueue_keepsOtherPeripheral (h : enqueue p v s = .accepted t) : KeepsOtherPeripheral p s t := by
  obtain ⟨-, rfl⟩ | ⟨-, r, -, rfl⟩ := enqueue_accepted h
  · exact (KeepsOtherPeripheral.refl p s).setDriver _
  · exact ((KeepsOtherPeripheral.refl p s).setRing _ r).setDriver _

theorem dequeue_keepsOtherPeripheral (h : dequeue p s = .next t) : KeepsOtherPeripheral p s t := by
  obtain ⟨v, r, -, rfl⟩ | ⟨-, rfl⟩ := dequeue_next h
  · exact ((KeepsOtherPeripheral.refl p s).setRing _ r).emit _
  · exact (KeepsOtherPeripheral.refl p s).emit _

theorem resetDriverOf_keepsOtherPeripheral (c : Channel) (h : KeepsOtherPeripheral (periph c) s t) :
    KeepsOtherPeripheral (periph c) s (resetDriverOf c t) := by
  cases c with
  | uartRx | spiRx => exact h
  | uartTx => exact h.setDriver _
  | spiTx => exact (h.setDriver _).setSkip _

/-- An event changes only the part of the state that belongs to its peripheral. -/
theorem event_keepsOtherPeripheral (hi : eventOf i = some p) (h : exec i s = .next t) : KeepsOtherPeripheral p s t := by
  obtain ⟨a, rfl⟩ := event_next_graft hi h
  cases p with
  | uart =>
    refine ⟨fun q hq => ?_, fun _ => rfl, fun _ => rfl⟩
    cases q with
    | uart => exact absurd rfl hq
    | spi => rfl
  | spi =>
    refine ⟨fun q hq => ?_, nofun, nofun⟩
    cases q with
    | uart => rfl
    | spi => exact absurd rfl hq

/-- Every operation keeps to the peripheral it belongs to (R113). -/
theorem exec_keepsOtherPeripheral (h : exec i s = .next t) : KeepsOtherPeripheral (ownerOf i) s t := by
  have hsame := KeepsOtherPeripheral.refl (ownerOf i) s
  cases i with
  | enqU value =>
    obtain ⟨u, henq, rfl⟩ | ⟨-, rfl⟩ := execEnqU_next h
    · exact (enqueue_keepsOtherPeripheral henq).emit _
    · exact hsame.emit _
  | enqS value keep =>
    obtain ⟨u, f, henq, -, rfl⟩ | ⟨-, rfl⟩ := execEnqS_next h
    · exact ((enqueue_keepsOtherPeripheral henq).setSkip f).emit _
    · exact hsame.emit _
  | deqU | deqS => exact dequeue_keepsOtherPeripheral h
  | rst c =>
    obtain rfl := respond_next h
    exact (resetDriverOf_keepsOtherPeripheral c (hsame.setRing c _)).emit _
  | empty c | full c => obtain rfl := respond_next h; exact hsame.emit _
  | hookset p | hookclr p => obtain rfl := respond_next h; exact (hsame.setDriver _).emit _
  | xchgU rx | xchgS rx => exact event_keepsOtherPeripheral rfl h

/-- An operation writes ring buffers of its own peripheral only. -/
theorem periph_of_mem_ringsWritten {c : Channel} (h : c ∈ ringsWritten i) : periph c = ownerOf i := by
  cases i with
  | enqU _ | enqS _ _ | deqU | deqS | rst _ => obtain rfl := List.mem_singleton.1 h; rfl
  | empty _ | full _ | hookset _ | hookclr _ => cases h
  | xchgU _ | xchgS _ => obtain rfl | rfl := List.mem_pair.1 h <;> rfl

theorem exec_ring_other {c : Channel} (hc : periph c ≠ ownerOf i) (h : exec i s = .next t) : t.ring c = s.ring c :=
  (exec_keepsRingsBut h).ring c fun hmem => hc (periph_of_mem_ringsWritten hmem)

/-- Settles O46, from the lemmas about the ring buffers, the schedule and the rest of the other peripheral. -/
theorem peripheralsDoNotInterfere : Obligations.PeripheralsDoNotInterfere := by
  intro i s t h
  have hother := exec_keepsOtherPeripheral h
  exact ⟨(exec_keepsRingsBut h).cfg, exec_schedule h, hother.driver, fun c hc => exec_ring_other hc h,
    fun hi => ⟨hother.skip hi, hother.draws hi⟩⟩

/-! ### What is in flight -/

/-- Nothing of what is in flight at `p` changes: neither TX(p), nor the driver but for its hook, nor the decisions of the SPI. -/
structure KeepsInFlight (p : Peripheral) (s t : State) : Prop where
  cfg : t.cfg = s.cfg
  ring : t.ring (txOf p) = s.ring (txOf p)
  driver : t.driver p = { s.driver p with hook := (t.driver p).hook }
  skip : p = .spi → t.skip = s.skip

theorem KeepsInFlight.inflight (h : KeepsInFlight p s t) : t.inflight p = s.inflight p := by
  rw [State.inflight, State.queue, h.cfg, h.ring, h.driver]
  rfl

theorem KeepsInFlight.inflightPairs (h : KeepsInFlight .spi s t) : t.inflightPairs = s.inflightPairs := by
  rw [State.inflightPairs, h.inflight, h.skip rfl, State.inflightPairs]

theorem periph_txOf (p : Peripheral) : periph (txOf p) = p := by cases p <;> rfl

theorem eq_spi_of_ne_uart (h : p ≠ .uart) : p = .spi := by
  cases p with
  | uart => exact absurd rfl h
  | spi => rfl

/-- An operation of the other peripheral. -/
theorem exec_keepsInFlight_of_other (hp : p ≠ ownerOf i) (h : exec i s = .next t) : KeepsInFlight p s t := by
  have hother := exec_keepsOtherPeripheral h
  refine ⟨(exec_keepsRingsBut h).cfg, exec_ring_other (by rwa [periph_txOf]) h, by rw [hother.driver p hp], ?_⟩
  rintro rfl
  refine hother.skip ?_
  by_contra hi
  exact hp (eq_spi_of_ne_uart hi).symm

theorem dequeue_keepsInFlight (h : dequeue p s = .next t) : KeepsInFlight p s t := by
  obtain ⟨v, r, -, rfl⟩ | ⟨-, rfl⟩ := dequeue_next h
  · exact ⟨by simp, by simp [State.setRing_ring_of_ne (txOf_ne_rxOf p p)], by simp, fun _ => by simp⟩
  · exact ⟨rfl, by simp, by simp, fun _ => rfl⟩

/-- Only ENQ, the event and RST of TX(p) touch what is in flight at `p`. -/
theorem exec_keepsInFlight (hoffer : offeredBy p i = none) (hevent : eventOf i ≠ some p) (hrst : i ≠ .rst (txOf p))
    (h : exec i s = .next t) : KeepsInFlight p s t := by
  by_cases hp : p = ownerOf i
  · subst hp
    cases i with
    | enqU _ | enqS _ _ => simp [offeredBy, ownerOf] at hoffer
    | deqU | deqS => exact dequeue_keepsInFlight h
    | rst c =>
      have hc : c ≠ txOf (periph c) := fun hc => hrst (congrArg _ hc)
      have hskip : periph c = .spi → t.skip = s.skip := fun hspi =>
        execRst_skip (fun hcs => hc (by rw [hspi, hcs]; rfl)) h
      exact ⟨(exec_keepsRingsBut h).cfg, execRst_ring hc.symm h, by rw [ownerOf, execRst_driver hc h], hskip⟩
    | empty _ | full _ => obtain rfl := respond_next h; exact ⟨rfl, by simp, by simp, fun _ => rfl⟩
    | hookset _ | hookclr _ =>
      obtain rfl := respond_next h
      exact ⟨by simp, by simp, by simp [ownerOf], fun _ => by simp⟩
    | xchgU _ | xchgS _ => exact absurd rfl hevent
  · exact exec_keepsInFlight_of_other hp h

end Sys2Proof.Machine
end

section
/-!
PROOFS. What ENQ, the event and RST of TX(p) do to what is in flight at `p` (10_state.md R33, 42_channel_commands.md R100, R101, R104,
43_exchange_driver.md R116 to R118): ENQ appends, the event takes the head, RST empties. The decisions of the SPI go along with the elements.
-/
namespace Sys2Proof.Machine

variable {s t u : State} {p : Peripheral} {i : Instr} {v rx : Element} {keep : Bool}

/-! ### Loaded, occupancy and the number in flight (R34, R35, R134, R135) -/

theorem loaded_eq_decide_pending (h : s.WF) (p : Peripheral) : (s.driver p).loaded = decide (1 ≤ s.pending p) := by
  obtain ⟨-, hidle, -⟩ := (wf_iff.1 h).1.driver p
  cases hloaded : (s.driver p).loaded with
  | true => simp [State.pending, hloaded]
  | false => simp [State.pending, hloaded, hidle hloaded]

theorem cnt_eq_pending_sub_one (h : s.WF) (p : Peripheral) : (s.ring (txOf p)).cnt = s.pending p - 1 := by
  obtain ⟨-, hidle, -⟩ := (wf_iff.1 h).1.driver p
  cases hloaded : (s.driver p).loaded with
  | true => simp [State.pending, hloaded]
  | false => simp [State.pending, hloaded, hidle hloaded]

/-- The elements queued in TX(p) are those in flight behind the slot (R33, R35). -/
theorem tail_inflight (h : s.WF) (p : Peripheral) : (s.inflight p).tail = s.queue (txOf p) := by
  obtain ⟨-, hidle, -⟩ := (wf_iff.1 h).1.driver p
  rw [State.inflight, Driver.staged]
  split
  · rfl
  · next hloaded => simp [State.queue, queue_of_cnt_zero (hidle (by simpa using hloaded))]

theorem length_inflightPairs (h : s.WF) : s.inflightPairs.length = s.pending .spi := by
  rw [State.inflightPairs, List.length_zip, length_inflight h, length_decisions, (wf_iff.1 h).2.pos_eq, Nat.min_self]

@[simp] theorem State.emit_inflight (s : State) (o : Output) (p : Peripheral) : (s.emit o).inflight p = s.inflight p := by
  cases p <;> rfl

/-! ### ENQ (R100, R101) -/

/-- Behind a slot that is not loaded nothing is queued, so the slow path is that of a loaded slot (R35). -/
theorem loaded_of_slowPath (h : s.WF) (hslow : fastPath (s.driver p) (s.ring (txOf p)) = false) : (s.driver p).loaded = true := by
  obtain ⟨-, hidle, -⟩ := (wf_iff.1 h).1.driver p
  by_contra hloaded
  have hloaded := eq_false_of_ne_true hloaded
  exact fastPath_eq_false_iff.1 hslow ⟨hloaded, hidle hloaded⟩

/-- Both paths of an accepted enqueue append to what is in flight. -/
theorem enqueue_inflight (h : s.WF) (ht : enqueue p v s = .accepted t) : t.inflight p = s.inflight p ++ [v] := by
  obtain ⟨hfast, rfl⟩ | ⟨-, r, hpush, rfl⟩ := enqueue_accepted ht
  · obtain ⟨hloaded, hempty⟩ := fastPath_iff.1 hfast
    simp [State.inflight, State.queue, stageSlot, Driver.staged, hloaded, queue_of_cnt_zero hempty]
  · have hqueue := ((wf_iff.1 h).1.ring (txOf p)).aligned.queue_push hpush
    simp [State.inflight, State.queue, Driver.staged, hqueue]

/-- An accepted enqueue writes `notify` when it finds something in flight, and then on its slow path only. -/
theorem enqueue_notify (h : s.WF) (ht : enqueue p v s = .accepted t) :
    (t.driver p).notify = ((s.driver p).notify || decide (1 ≤ s.pending p)) := by
  rw [← loaded_eq_decide_pending h]
  obtain ⟨hfast, rfl⟩ | ⟨hslow, r, -, rfl⟩ := enqueue_accepted ht
  · simp [stageSlot, (fastPath_iff.1 hfast).1]
  · simp [loaded_of_slowPath h hslow]

/-- What an accepted ENQ of `v` on TX(p) does to the observable parts of `p`, and its answer. -/
structure Accepts (p : Peripheral) (v : Element) (s t : State) : Prop where
  inflight : t.inflight p = s.inflight p ++ [v]
  received : t.queue (rxOf p) = s.queue (rxOf p)
  notify : (t.driver p).notify = ((s.driver p).notify || decide (1 ≤ s.pending p))
  hook : (t.driver p).hook = (s.driver p).hook
  out : t.out = s.out ++ [.response 0x00000000]

theorem enqueue_accepts (h : s.WF) (ht : enqueue p v s = .accepted t) (f : SkipFlags) :
    Accepts p v s ((t.setSkip f).emit (.response 0x00000000)) where
  inflight := by
    rw [State.emit_inflight, ← enqueue_inflight h ht]
    simp [State.inflight, State.queue]
  received :=
    (((enqueue_keepsRingsBut ht).setSkip f).emit _).queue (by simpa using (txOf_ne_rxOf p p).symm)
  notify := by simpa using enqueue_notify h ht
  hook := by simpa using enqueue_hook ht p
  out := (((enqueue_appends ht).setSkip f).trans (.emit _ _)).out

/-- An ENQ on TX(p) is accepted with room for one more in flight, or refused with nothing changed but the records. -/
theorem exec_enq_cases (h : s.WF) (hi : offeredBy p i = some v) (ht : exec i s = .next t) :
    (s.pending p ≤ s.cfg.N ∧ Accepts p v s t) ∨
    (s.pending p = s.cfg.N + 1 ∧ t = s.emit (.response 0x00010000)) := by
  obtain ⟨u, f, henq, rfl⟩ | ⟨hfull, rfl⟩ := exec_enq_next hi ht
  · exact .inl ⟨(pending_le_iff h p).2 (cnt_ne_of_enqueue_accepted henq h.1.1), enqueue_accepts h henq f⟩
  · have hover := mt (pending_le_iff h p).1 (not_not.2 (cnt_eq_of_enqueue_bufferFull hfull))
    have hle := pending_le_succ h p
    exact .inr ⟨by omega, rfl⟩

/-! ### The event (R116 to R118) -/

/-- What an event of `p` does to its driver and to TX(p): what was queued is then in flight, its head in the slot. -/
structure Refills (p : Peripheral) (s t : State) : Prop where
  loaded : (t.driver p).loaded = decide ((s.ring (txOf p)).cnt ≠ 0)
  notify : (t.driver p).notify = decide ((s.ring (txOf p)).cnt ≠ 0)
  cnt : (t.ring (txOf p)).cnt = (s.ring (txOf p)).cnt - 1
  inflight : t.inflight p = s.queue (txOf p)

/-- It makes no difference to a refill what happens to RX(p) before it, or to the records after it. -/
theorem Refills.of_frame {a b : State} (h : Refills p a b) (ha : KeepsRingsBut [rxOf p] s a) (hb : KeepsRingsBut [] b t)
    (hdriver : t.driver p = b.driver p) : Refills p s t := by
  have htx : txOf p ∉ [rxOf p] := by simpa using txOf_ne_rxOf p p
  have hring := ha.ring _ htx
  have hring' := hb.ring (txOf p) List.not_mem_nil
  constructor
  · rw [hdriver, h.loaded, hring]
  · rw [hdriver, h.notify, hring]
  · rw [hring', h.cnt, hring]
  · rw [← ha.queue htx, ← h.inflight, State.inflight, hdriver, hb.queue List.not_mem_nil, State.inflight]

theorem refill_refills (h : refill p s = .ok t) : Refills p s t := by
  obtain ⟨v, r, hpop, rfl⟩ | ⟨hempty, rfl⟩ := refill_ok h
  · obtain ⟨hcnt, -, -, hr⟩ := rbPop_ok hpop
    constructor
    · simp [hcnt]
    · simp [hcnt]
    · simp [hr]
    · simp [State.inflight, State.queue, Driver.staged, queue_pop hpop]
  · constructor
    · simp [hempty]
    · simp [hempty]
    · simp [hempty]
    · simp [State.inflight, State.queue, Driver.staged]

theorem fireHook_driver (p : Peripheral) (s : State) : (fireHook p s).driver p = s.driver p := by
  obtain hhook | ⟨o, hhook⟩ := fireHook_cases p s <;> simp [hhook]

theorem finishExchange_refills (h : finishExchange p keep rx s = .next t) : Refills p s t := by
  obtain ⟨a, b, hharvest, hrefill, rfl⟩ := finishExchange_next h
  exact (refill_refills hrefill).of_frame (harvest_keepsRingsBut (by simp) hharvest) (fireHook_keepsRingsBut p b)
    (fireHook_driver p b)

/-- The hook pulse is one more record or none (R118, R132). -/
theorem fireHook_eq (p : Peripheral) (s : State) :
    fireHook p s = { s with out := s.out ++ refHookRecord p (s.driver p).hook } := by
  cases hhook : (s.driver p).hook <;> simp [fireHook, refHookRecord, hhook, State.emit]

/-- Harvest and refill record nothing. -/
theorem finishExchange_out (h : finishExchange p keep rx s = .next t) :
    t.out = s.out ++ refHookRecord p (s.driver p).hook := by
  obtain ⟨a, b, hharvest, hrefill, rfl⟩ := finishExchange_next h
  have hhook := ((harvest_handlerWrites (p := p) hharvest).trans (refill_handlerWrites hrefill)).hook
  have hout := ((harvest_appends hharvest).trans (refill_appends hrefill)).out
  rw [fireHook_eq, hhook, hout, List.append_nil, List.append_nil]

/-- The wire record of an event: the UART's is that of a loaded slot only; an idle SPI exchange sends a free value (R121, R122, R131). -/
def wireRecord : Peripheral → State → List Output
  | .uart, s => if s.uart.loaded then [.txOut .uart s.uart.slot] else []
  | .spi, s => [.txOut .spi (if s.spi.loaded then s.spi.slot else drawElement s.cfg.W s.draws)]

theorem wireRecord_of_loaded (h : (s.driver p).loaded = true) : wireRecord p s = [.txOut p (s.driver p).slot] := by
  cases p with
  | uart => exact if_pos h
  | spi =>
    have hloaded : s.spi.loaded = true := h
    simp [wireRecord, hloaded]

theorem recordSentU_eq (s : State) : recordSentU s = { s with out := s.out ++ wireRecord .uart s } := by
  cases hloaded : s.uart.loaded <;> simp [recordSentU, emitSent, wireRecord, State.emit, hloaded]

theorem recordSentS_eq (s : State) : recordSentS s =
    { s with draws := if s.spi.loaded then s.draws else s.draws + 1, out := s.out ++ wireRecord .spi s } := by
  cases hloaded : s.spi.loaded <;> simp [recordSentS, emitSent, emitDrawn, wireRecord, State.emit, hloaded]

/-- Both events are their wire record, then the common end (R116, R117). -/
theorem event_finishes (hi : eventOf i = some p) (h : exec i s = .next t) :
    ∃ u keep, KeepsRingsBut [] s u ∧ u.driver p = s.driver p ∧ u.out = s.out ++ wireRecord p s ∧
      finishExchange p keep (rxOperand i) u = .next t := by
  cases i with
  | xchgU rx =>
    obtain rfl : Peripheral.uart = p := Option.some.inj hi
    exact ⟨recordSentU s, true, recordSentU_keepsRingsBut s, by rw [recordSentU_eq]; rfl, by rw [recordSentU_eq],
      (execXchgU_eq rx s).symm.trans h⟩
  | xchgS rx =>
    obtain rfl : Peripheral.spi = p := Option.some.inj hi
    exact ⟨(recordSentS s).setSkip (sfConsume s.cfg.idleKeep s.skip).2, _, (recordSentS_keepsRingsBut s).setSkip _,
      by rw [recordSentS_eq]; rfl, by rw [recordSentS_eq]; rfl, (execXchgS_eq rx s).symm.trans h⟩
  | enqU _ | enqS _ _ | deqU | deqS | rst _ | empty _ | full _ | hookset _ | hookclr _ => cases hi

theorem event_refills (hi : eventOf i = some p) (h : exec i s = .next t) : Refills p s t := by
  obtain ⟨u, keep, hkeeps, -, -, hfinish⟩ := event_finishes hi h
  refine (finishExchange_refills hfinish).of_frame ⟨hkeeps.cfg, fun c _ => hkeeps.ring c List.not_mem_nil⟩ (.refl [] t) rfl

/-- The records of an event: the wire, then the hook (R118, R131, R132). -/
theorem event_out (hi : eventOf i = some p) (h : exec i s = .next t) :
    t.out = s.out ++ (wireRecord p s ++ refHookRecord p (s.driver p).hook) := by
  obtain ⟨u, keep, -, hdriver, hout, hfinish⟩ := event_finishes hi h
  rw [finishExchange_out hfinish, hdriver, hout, List.append_assoc]

/-- An event takes the head of what is in flight. -/
theorem event_inflight (hs : s.WF) (hi : eventOf i = some p) (h : exec i s = .next t) : t.inflight p = (s.inflight p).tail := by
  rw [tail_inflight hs, (event_refills hi h).inflight]

/-- The common end of both events does not touch the vector. -/
theorem finishExchange_skip (h : finishExchange p keep rx s = .next t) : t.skip = s.skip := by
  obtain ⟨a, b, hharvest, hrefill, rfl⟩ := finishExchange_next h
  have ha : a.skip = s.skip := by
    obtain ⟨-, r, -, rfl⟩ | ⟨-, rfl⟩ := harvest_ok hharvest <;> simp
  have hb : b.skip = a.skip := by
    obtain ⟨v, r, -, rfl⟩ | ⟨-, rfl⟩ := refill_ok hrefill <;> simp
  obtain hhook | ⟨o, hhook⟩ := fireHook_cases p b <;> simp [hhook, ha, hb]

/-- XCHG.S takes the head of the decisions (R117). -/
theorem execXchgS_decisions (h : execXchgS rx s = .next t) : t.skip.decisions = s.skip.decisions.tail := by
  rw [finishExchange_skip ((execXchgS_eq rx s).symm.trans h), State.setSkip_skip]
  by_cases hpos : s.skip.pos = 0
  · rw [sfConsume_idle hpos, decisions_of_pos_zero hpos, List.tail_nil]
  · rw [decisions_consume s.cfg.idleKeep hpos, List.tail_cons]

/-! ### RST of TX(p) (R104) -/

/-- What is in flight after RST of TX(p) is nothing. -/
theorem execRst_inflight (h : execRst (txOf p) s = .next t) : t.inflight p = [] := by
  obtain rfl := respond_next h
  cases p <;> rfl

/-! ### Elements with their decisions (R33) -/

theorem enqueue_skip (h : enqueue p v s = .accepted t) : t.skip = s.skip := by
  obtain ⟨-, rfl⟩ | ⟨-, r, -, rfl⟩ := enqueue_accepted h <;> simp [stageSlot]

/-- An accepted ENQ.S appends its pair. -/
theorem execEnqS_inflightPairs (h : s.WF) (hroom : s.pending .spi ≤ s.cfg.N) (ht : execEnqS v keep s = .next t) :
    t.inflightPairs = s.inflightPairs ++ [(v, keep)] := by
  have hlength : (s.inflight .spi).length = s.skip.decisions.length := by
    rw [length_inflight h, length_decisions, (wf_iff.1 h).2.pos_eq]
  obtain ⟨u, f, henq, hrec, rfl⟩ | ⟨hfull, -⟩ := execEnqS_next ht
  · rw [enqueue_skip henq] at hrec
    change (u.inflight .spi).zip f.decisions = _
    rw [enqueue_inflight h henq, decisions_record hrec, List.zip_append hlength]
    rfl
  · exact absurd (cnt_eq_of_enqueue_bufferFull hfull) ((pending_le_iff h .spi).1 hroom)

/-- XCHG.S takes the head of the pairs. -/
theorem execXchgS_inflightPairs (h : s.WF) (ht : execXchgS rx s = .next t) : t.inflightPairs = s.inflightPairs.tail := by
  rw [State.inflightPairs, event_inflight (i := .xchgS rx) h rfl ht, execXchgS_decisions ht, State.inflightPairs, List.zip,
    ← List.tail_zipWith]

theorem execRst_inflightPairs (h : execRst .spiTx s = .next t) : t.inflightPairs = [] := by
  rw [State.inflightPairs, execRst_inflight (p := .spi) h, List.zip_nil_left]

end Sys2Proof.Machine
end

section
/-!
PROOFS. The wire order law (43_exchange_driver.md R126) and its sharpening to pairs (R119): each operation keeps the balance of what is in
flight, what is accepted and what is sent; a sequence sums these balances.
-/
namespace Sys2Proof.Machine

variable {α : Type} {s t : State} {p : Peripheral} {i : Instr} {is : List Instr}

/-! ### Summing over a sequence -/

/-- What the operations of a sequence contribute, in order, when each contributes `f i s t`. -/
def collect (f : Instr → State → State → List α) : List Instr → State → List α
  | [], _ => []
  | i :: is, s =>
    match exec i s with
    | .next t => f i s t ++ collect f is t
    | .fault _ => []
    | .refused _ => []

theorem collect_cons {f : Instr → State → State → List α} (h : exec i s = .next t) :
    collect f (i :: is) s = f i s t ++ collect f is t := by simp only [collect, h]

/-- When every operation but RST of `c` keeps the balance of what is held, gained and lost, every sequence without it does. -/
theorem collect_balance {held : State → List α} {gained lost : Instr → State → State → List α} {c : Channel}
    (hstep : ∀ {i s t}, s.WF → i ≠ .rst c → exec i s = .next t → held s ++ gained i s t = lost i s t ++ held t)
    (hs : s.WF) (hw : ∀ i ∈ is, i.wellFormed s.cfg.W = true) (hrst : Instr.rst c ∉ is) :
    ∃ t, runInstrs is s = some t ∧ held s ++ collect gained is s = collect lost is s ++ held t := by
  induction is generalizing s with
  | nil => exact ⟨s, rfl, List.append_nil _⟩
  | cons i is ih =>
    obtain ⟨hfirst, hrest⟩ := List.forall_mem_cons.1 hw
    obtain ⟨hne, hrst⟩ := not_or.1 (mt List.mem_cons.2 hrst)
    obtain ⟨u, hu⟩ := exec_completes hs i
    obtain ⟨hwf, hcfg⟩ := exec_wf hs hfirst hu
    obtain ⟨t, ht, hbalance⟩ := ih hwf (hcfg ▸ hrest) hrst
    refine ⟨t, (runInstrs_cons hu).trans ht, ?_⟩
    calc held s ++ collect gained (i :: is) s
        = lost i s u ++ (held u ++ collect gained is u) := by
          rw [collect_cons hu, ← List.append_assoc, hstep hs (Ne.symm hne) hu, List.append_assoc]
      _ = collect lost (i :: is) s ++ held t := by
          rw [hbalance, collect_cons hu, List.append_assoc]

/-! ### What one operation accepts and sends -/

/-- The summand of `acceptedValues`. -/
def acceptedBy (p : Peripheral) (i : Instr) (s t : State) : List Element :=
  if respondedOk s t then (offeredBy p i).toList else []

/-- The summand of `acceptedPairs`. -/
def acceptedPairsBy (i : Instr) (s t : State) : List (Element × Bool) :=
  if respondedOk s t then (offeredBy .spi i).toList.map (fun v => (v, keepOperand i)) else []

/-- The summand of `sentValues`. -/
def sentBy (p : Peripheral) (i : Instr) (s t : State) : List Element :=
  if eventOf i = some p ∧ (s.driver p).loaded = true then wireRecordOf p (newOutputs s t) else []

/-- The summand of `sentPairs`. -/
def sentPairsBy (i : Instr) (s t : State) : List (Element × Bool) :=
  if eventOf i = some .spi ∧ s.spi.loaded = true then
    (wireRecordOf .spi (newOutputs s t)).map (fun v => (v, (sfConsume s.cfg.idleKeep s.skip).1)) else []

theorem acceptedValues_eq_collect (p : Peripheral) (is : List Instr) (s : State) :
    acceptedValues p is s = collect (acceptedBy p) is s := by
  induction is generalizing s with
  | nil => rfl
  | cons i is ih => cases h : exec i s <;> simp only [acceptedValues, collect, acceptedBy, h, ih]

theorem acceptedPairs_eq_collect (is : List Instr) (s : State) : acceptedPairs is s = collect acceptedPairsBy is s := by
  induction is generalizing s with
  | nil => rfl
  | cons i is ih => cases h : exec i s <;> simp only [acceptedPairs, collect, acceptedPairsBy, h, ih]

theorem sentValues_eq_collect (p : Peripheral) (is : List Instr) (s : State) :
    sentValues p is s = collect (sentBy p) is s := by
  induction is generalizing s with
  | nil => rfl
  | cons i is ih => cases h : exec i s <;> simp only [sentValues, collect, sentBy, h, ih]

theorem sentPairs_eq_collect (is : List Instr) (s : State) : sentPairs is s = collect sentPairsBy is s := by
  induction is generalizing s with
  | nil => rfl
  | cons i is ih => cases h : exec i s <;> simp only [sentPairs, collect, sentPairsBy, h, ih]

/-! ### The balance of one operation -/

theorem Accepts.respondedOk {v : Element} (h : Accepts p v s t) : respondedOk s t = true := by
  rw [Machine.respondedOk, newOutputs_of_out_eq h.out]
  decide

theorem not_respondedOk_of_refused (s : State) : respondedOk s (s.emit (.response 0x00010000)) = false := by
  rw [respondedOk, newOutputs_of_out_eq (State.emit_out s _)]
  decide

/-- A loaded exchange records the element that was in the slot; the hook record carries none. -/
theorem wireRecordOf_event (hloaded : (s.driver p).loaded = true) (hi : eventOf i = some p) (h : exec i s = .next t) :
    wireRecordOf p (newOutputs s t) = [(s.driver p).slot] := by
  rw [newOutputs_of_out_eq (event_out hi h), wireRecord_of_loaded hloaded]
  cases hhook : (s.driver p).hook <;> simp [wireRecordOf, refHookRecord]

/-- What an event sends is what was in the slot. -/
theorem sentBy_event (hi : eventOf i = some p) (h : exec i s = .next t) : sentBy p i s t = (s.driver p).staged := by
  rw [sentBy, Driver.staged]
  split_ifs with hsent hloaded hloaded
  · exact wireRecordOf_event hloaded hi h
  · exact absurd hsent.2 hloaded
  · exact absurd ⟨hi, hloaded⟩ hsent
  · rfl

theorem acceptedBy_of_not_offered (h : offeredBy p i = none) : acceptedBy p i s t = [] := by simp [acceptedBy, h]

theorem sentBy_of_not_event (h : eventOf i ≠ some p) : sentBy p i s t = [] := if_neg fun hi => h hi.1

/-- What was in flight and what an operation accepts is what it sends and what is in flight after it. -/
theorem exec_inflight_balance (hs : s.WF) (hrst : i ≠ .rst (txOf p)) (h : exec i s = .next t) :
    s.inflight p ++ acceptedBy p i s t = sentBy p i s t ++ t.inflight p := by
  by_cases hevent : eventOf i = some p
  · rw [acceptedBy_of_not_offered (offeredBy_of_event (by simp [hevent])), sentBy_event hevent h,
      (event_refills hevent h).inflight, List.append_nil, State.inflight]
  rw [sentBy_of_not_event hevent, List.nil_append]
  cases hoffer : offeredBy p i with
  | some v =>
    obtain ⟨-, haccepts⟩ | ⟨-, rfl⟩ := exec_enq_cases hs hoffer h
    · rw [acceptedBy, if_pos haccepts.respondedOk, hoffer, haccepts.inflight, Option.toList_some]
    · rw [acceptedBy, not_respondedOk_of_refused, if_neg Bool.false_ne_true, List.append_nil, State.emit_inflight]
  | none =>
    rw [acceptedBy_of_not_offered hoffer, (exec_keepsInFlight hoffer hevent hrst h).inflight, List.append_nil]

/-- Settles O39: the balance of each operation, summed over the sequence. -/
theorem wireOrderLaw : Obligations.WireOrderLaw := by
  intro p is s hs hw hrst
  obtain ⟨t, hrun, hbalance⟩ := collect_balance (fun {_ _ _} => exec_inflight_balance) hs hw hrst
  rw [← acceptedValues_eq_collect, ← sentValues_eq_collect] at hbalance
  refine ⟨t, hrun, hbalance, fun hnone => ⟨t.inflight p, ?_⟩⟩
  rw [← hbalance, hnone, List.nil_append]

/-! ### The balance of one operation, elements with their decisions -/

/-- The head of the pairs in flight is the element in the slot with the bit SF.CONSUME answers (R119). -/
theorem inflightPairs_of_loaded (hs : s.WF) (hloaded : s.spi.loaded = true) :
    s.inflightPairs = (s.spi.slot, (sfConsume s.cfg.idleKeep s.skip).1) :: s.inflightPairs.tail := by
  have hpos : s.skip.pos ≠ 0 := by rw [(wf_iff.1 hs).2.pos_eq]; simp [State.pending, hloaded]
  rw [State.inflightPairs, decisions_consume s.cfg.idleKeep hpos]
  simp [State.inflight, Driver.staged, hloaded]

theorem inflightPairs_of_not_loaded (hs : s.WF) (hloaded : s.spi.loaded ≠ true) : s.inflightPairs = [] := by
  have hnone := (loaded_eq_decide_pending hs .spi).symm.trans (eq_false_of_ne_true hloaded)
  rw [← List.length_eq_zero_iff, length_inflightPairs hs]
  simpa using hnone

/-- What XCHG.S sends is the head of the pairs in flight. -/
theorem sentPairsBy_xchgS {rx : Element} (hs : s.WF) (h : execXchgS rx s = .next t) :
    s.inflightPairs = sentPairsBy (.xchgS rx) s t ++ t.inflightPairs := by
  rw [execXchgS_inflightPairs hs h]
  by_cases hloaded : s.spi.loaded = true
  · rw [sentPairsBy, if_pos ⟨rfl, hloaded⟩, wireRecordOf_event (p := .spi) (i := .xchgS rx) hloaded rfl h]
    exact inflightPairs_of_loaded hs hloaded
  · rw [sentPairsBy, if_neg fun hsent => hloaded hsent.2, inflightPairs_of_not_loaded hs hloaded]
    rfl

/-- The balance of `exec_inflight_balance` for elements with their decisions. -/
theorem exec_inflightPairs_balance (hs : s.WF) (hrst : i ≠ .rst .spiTx) (h : exec i s = .next t) :
    s.inflightPairs ++ acceptedPairsBy i s t = sentPairsBy i s t ++ t.inflightPairs := by
  cases i with
  | enqS v keep =>
    rw [sentPairsBy, if_neg (by simp [eventOf]), List.nil_append]
    obtain ⟨hroom, haccepts⟩ | ⟨-, rfl⟩ := exec_enq_cases (p := .spi) (v := v) hs rfl h
    · rw [acceptedPairsBy, if_pos haccepts.respondedOk, execEnqS_inflightPairs hs hroom h]
      rfl
    · rw [acceptedPairsBy, not_respondedOk_of_refused, if_neg Bool.false_ne_true, List.append_nil]
      rfl
  | xchgS rx =>
    have hnone : acceptedPairsBy (.xchgS rx) s t = [] := by simp [acceptedPairsBy, offeredBy]
    rw [hnone, List.append_nil]
    exact sentPairsBy_xchgS hs h
  | enqU _ | deqU | deqS | rst _ | empty _ | full _ | hookset _ | hookclr _ | xchgU _ =>
    have hkeeps := exec_keepsInFlight (p := .spi) (by simp [offeredBy]) (by simp [eventOf]) hrst h
    simp [acceptedPairsBy, sentPairsBy, offeredBy, eventOf, hkeeps.inflightPairs]

/-- Settles O40: the balance of each operation, summed over the sequence. -/
theorem decisionTravelsWithItsElement : Obligations.DecisionTravelsWithItsElement := by
  intro is s hs hw hrst
  obtain ⟨t, hrun, hbalance⟩ := collect_balance (fun {_ _ _} => exec_inflightPairs_balance) hs hw hrst
  rw [← acceptedPairs_eq_collect, ← sentPairs_eq_collect] at hbalance
  exact ⟨t, hrun, hbalance⟩

end Sys2Proof.Machine
end

section
/-!
PROOFS. The register model performs the list-level reference machines (43_exchange_driver.md R134, R135). What an operation does to the
abstract state is the same for both peripherals, and for elements alone or with their decisions, but for the in-flight list itself; so each
operation is treated once, over any list `F` that is as long as what is in flight.
-/
namespace Sys2Proof.Machine

/-- The abstract state of `p` with `F` as its in-flight list. -/
def State.absWith {α : Type} (s : State) (p : Peripheral) (F : List α) : Reference α :=
  { F := F, Q := s.queue (rxOf p), notify := (s.driver p).notify, hook := (s.driver p).hook }

theorem absUart_eq_absWith (s : State) : s.absUart = s.absWith .uart (s.inflight .uart) := rfl

theorem absSpi_eq_absWith (s : State) : s.absSpi = s.absWith .spi s.inflightPairs := rfl

/-- From `s` to `t`, with `F` in flight after it, peripheral `p` does the step `x` of its reference machine. -/
structure Performs {α : Type} (p : Peripheral) (F : List α) (x : ReferenceStep α) (s t : State) : Prop where
  abs : t.absWith p F = x.1
  out : t.out = s.out ++ x.2

variable {α : Type} {s t : State} {p : Peripheral} {i : Instr} {v rx : Element} {F : List α}

/-- An operation of the other peripheral leaves the abstract state alone. -/
theorem exec_absWith_of_other (hp : p ≠ ownerOf i) (h : exec i s = .next t) (F : List α) : t.absWith p F = s.absWith p F := by
  have hrx : periph (rxOf p) ≠ ownerOf i := by cases p <;> exact hp
  simp only [State.absWith, State.queue, exec_ring_other hrx h, (exec_keepsRingsBut h).cfg,
    (exec_keepsOtherPeripheral h).driver p hp]

/-! ### Commands -/

/-- A command that only answers. -/
theorem performs_answer (s : State) (st : Status) (data : Element) (p : Peripheral) (F : List α) :
    Performs p F (s.absWith p F, [respondRecord st data]) s (s.emit (.response (responseWord st data))) :=
  ⟨by cases p <;> rfl, rfl⟩

/-- An ENQ that finds room (R100, R101). -/
theorem Accepts.performs (h : Accepts p v s t) (hroom : s.pending p ≤ s.cfg.N) (hF : F.length = s.pending p) (x : α) :
    Performs p (F ++ [x]) (refEnqueue s.cfg.N x (s.absWith p F)) s t := by
  have hne : (s.absWith p F).F.length ≠ s.cfg.N + 1 := by change F.length ≠ _; omega
  have hok : respondRecord .ok 0 = .response 0x00000000 := by decide
  rw [refEnqueue, if_neg hne, hok]
  refine ⟨?_, h.out⟩
  simp only [State.absWith, h.received, h.notify, h.hook, hF]

/-- An ENQ that finds no room (R100, R101). -/
theorem refused_performs (hfull : s.pending p = s.cfg.N + 1) (hF : F.length = s.pending p) (x : α) :
    Performs p F (refEnqueue s.cfg.N x (s.absWith p F)) s (s.emit (.response 0x00010000)) := by
  have heq : (s.absWith p F).F.length = s.cfg.N + 1 := hF.trans hfull
  rw [refEnqueue, if_pos heq, ← responseWord_bufferFull]
  exact performs_answer s _ _ p F

/-- DEQ (R102, R103). -/
theorem dequeue_performs (h : dequeue p s = .next t) (F : List α) : Performs p F (refDequeue (s.absWith p F)) s t := by
  obtain ⟨v, r, hpop, rfl⟩ | ⟨hempty, rfl⟩ := dequeue_next h
  · have hqueue : s.queue (rxOf p) = v :: r.queue s.cfg.N := queue_pop hpop
    simp only [refDequeue, State.absWith, hqueue]
    exact ⟨by simp [State.absWith, State.queue], by simp [respondRecord]⟩
  · have hqueue : s.queue (rxOf p) = [] := queue_of_cnt_zero hempty
    have hstep : refDequeue (s.absWith p F) = (s.absWith p F, [respondRecord .bufferEmpty 0]) := by
      simp only [refDequeue, State.absWith, hqueue]
    rw [hstep]
    exact performs_answer s _ _ p F

/-- RST of TX(p) (R104). -/
theorem execRst_txOf_performs (h : execRst (txOf p) s = .next t) (F : List α) :
    Performs p [] (refResetTx (s.absWith p F)) s t := by
  obtain rfl := respond_next h
  cases p <;> exact ⟨rfl, rfl⟩

/-- RST of RX(p) (R104). -/
theorem execRst_rxOf_performs (h : execRst (rxOf p) s = .next t) (F : List α) :
    Performs p F (refResetRx (s.absWith p F)) s t := by
  obtain rfl := respond_next h
  cases p <;> exact ⟨rfl, rfl⟩

/-- EMPTY of TX(p) asks whether anything is in flight behind the slot (R105). -/
theorem execEmpty_txOf_performs (hs : s.WF) (hF : F.length = s.pending p) (h : execEmpty (txOf p) s = .next t) :
    Performs p F (refAnswer (decide ((s.absWith p F).F.length ≤ 1)) (s.absWith p F)) s t := by
  obtain rfl := respond_next h
  have hflag : rbEmpty (s.ring (txOf p)) = decide (F.length ≤ 1) := by
    rw [Bool.eq_iff_iff, rbEmpty_iff, decide_eq_true_eq, hF, cnt_eq_pending_sub_one hs]
    omega
  rw [hflag]
  exact performs_answer s _ _ p F

/-- FULL of TX(p) asks whether there is room for one more in flight (R106). -/
theorem execFull_txOf_performs (hs : s.WF) (hF : F.length = s.pending p) (h : execFull (txOf p) s = .next t) :
    Performs p F (refAnswer (decide ((s.absWith p F).F.length = s.cfg.N + 1)) (s.absWith p F)) s t := by
  obtain rfl := respond_next h
  have hflag : rbFull s.cfg.N (s.ring (txOf p)) = decide (F.length = s.cfg.N + 1) := by
    have hroom := pending_le_iff hs p
    have hle := pending_le_succ hs p
    rw [Bool.eq_iff_iff, rbFull_iff, decide_eq_true_eq, hF]
    omega
  rw [hflag]
  exact performs_answer s _ _ p F

theorem length_queue_rxOf (h : s.WF) (p : Peripheral) : (s.queue (rxOf p)).length = (s.ring (rxOf p)).cnt :=
  ((wf_iff.1 h).1.ring _).aligned.length_queue

/-- EMPTY of RX(p) (R105). -/
theorem execEmpty_rxOf_performs (hs : s.WF) (h : execEmpty (rxOf p) s = .next t) (F : List α) :
    Performs p F (refAnswer (decide ((s.absWith p F).Q.length = 0)) (s.absWith p F)) s t := by
  obtain rfl := respond_next h
  have hflag : rbEmpty (s.ring (rxOf p)) = decide ((s.queue (rxOf p)).length = 0) := by
    rw [Bool.eq_iff_iff, rbEmpty_iff, decide_eq_true_eq, length_queue_rxOf hs]
  rw [hflag]
  exact performs_answer s _ _ p F

/-- FULL of RX(p) (R106). -/
theorem execFull_rxOf_performs (hs : s.WF) (h : execFull (rxOf p) s = .next t) (F : List α) :
    Performs p F (refAnswer (decide ((s.absWith p F).Q.length = s.cfg.N)) (s.absWith p F)) s t := by
  obtain rfl := respond_next h
  have hflag : rbFull s.cfg.N (s.ring (rxOf p)) = decide ((s.queue (rxOf p)).length = s.cfg.N) := by
    rw [Bool.eq_iff_iff, rbFull_iff, decide_eq_true_eq, length_queue_rxOf hs]
  rw [hflag]
  exact performs_answer s _ _ p F

/-- HOOKSET (R107). -/
theorem execHookset_performs (h : execHookset p s = .next t) (F : List α) :
    Performs p F (refHook true (s.absWith p F)) s t := by
  obtain rfl := respond_next h
  cases p <;> exact ⟨rfl, rfl⟩

/-- HOOKCLR (R108). -/
theorem execHookclr_performs (h : execHookclr p s = .next t) (F : List α) :
    Performs p F (refHook false (s.absWith p F)) s t := by
  obtain rfl := respond_next h
  cases p <;> exact ⟨rfl, rfl⟩

/-! ### Events -/

/-- Both events take the head of what is in flight, and store the received element if it is kept and finds room (R116, R117). -/
theorem event_absWith {keep : Bool} (hs : s.WF) (hF : F.length = s.pending p) (hi : eventOf i = some p)
    (hkeep : (p = .uart ∨ (s.inflightPairs.head?.map Prod.snd).getD s.cfg.idleKeep = true) ↔ keep = true)
    (h : exec i s = .next t) :
    t.absWith p F.tail = refExchange s.cfg.N keep (rxOperand i) (s.absWith p F) := by
  have hrefills := event_refills hi h
  have hhook := (event_handlerWrites (p := p) (by simp [hi]) h).hook
  have hreceived : t.queue (rxOf p) = if keep = true ∧ (s.queue (rxOf p)).length < s.cfg.N
      then s.queue (rxOf p) ++ [rxOperand i] else s.queue (rxOf p) := by
    rw [event_queue hs hi h, storedBy]
    simp only [hi, hkeep, true_and, and_comm]
    split_ifs <;> simp
  have hnotify : (t.driver p).notify = decide (2 ≤ F.length) := by
    rw [hrefills.notify, hF, cnt_eq_pending_sub_one hs]
    exact decide_eq_decide.2 (by omega)
  exact (Reference.mk.injEq ..).mpr ⟨rfl, hreceived, hnotify, hhook⟩

theorem inflight_of_loaded (h : (s.driver p).loaded = true) : s.inflight p = (s.driver p).slot :: s.queue (txOf p) := by
  simp [State.inflight, Driver.staged, h]

theorem inflight_of_not_loaded (hs : s.WF) (h : (s.driver p).loaded = false) : s.inflight p = [] := by
  have hnone := (loaded_eq_decide_pending hs p).symm.trans h
  rw [← List.length_eq_zero_iff, length_inflight hs]
  simpa using hnone

/-- The reference's XCHG.U, its records written from the registers. -/
theorem refXchgU_absUart (hs : s.WF) (rx : Element) : refXchgU s.cfg rx s.absUart =
    (refExchange s.cfg.N true rx s.absUart, wireRecord .uart s ++ refHookRecord .uart s.uart.hook) := by
  cases hloaded : s.uart.loaded with
  | true =>
    have hF : s.absUart.F = s.uart.slot :: s.queue .uartTx := inflight_of_loaded (p := .uart) hloaded
    simp only [refXchgU, hF, wireRecord_of_loaded (p := .uart) hloaded]
    rfl
  | false =>
    have hF : s.absUart.F = [] := inflight_of_not_loaded (p := .uart) hs hloaded
    simp only [refXchgU, hF, wireRecord, hloaded]
    rfl

/-- The reference's XCHG.S, its decision read off the pairs in flight and its records written from the registers. -/
theorem refXchgS_absSpi (hs : s.WF) (rx : Element) : refXchgS s.cfg (drawElement s.cfg.W s.draws) rx s.absSpi =
    (refExchange s.cfg.N ((s.inflightPairs.head?.map Prod.snd).getD s.cfg.idleKeep) rx s.absSpi,
      wireRecord .spi s ++ refHookRecord .spi s.spi.hook) := by
  by_cases hloaded : s.spi.loaded = true
  · have hpairs := inflightPairs_of_loaded hs hloaded
    have hF : s.absSpi.F = _ := hpairs
    rw [hpairs]
    simp only [refXchgS, hF, wireRecord_of_loaded (p := .spi) hloaded]
    rfl
  · have hpairs := inflightPairs_of_not_loaded hs hloaded
    have hF : s.absSpi.F = [] := hpairs
    simp only [refXchgS, hF, hpairs, wireRecord, hloaded]
    rfl

theorem execXchgU_performs (hs : s.WF) (h : execXchgU rx s = .next t) :
    Performs .uart (t.inflight .uart) (refXchgU s.cfg rx s.absUart) s t := by
  rw [refXchgU_absUart hs, event_inflight (i := .xchgU rx) hs rfl h]
  exact ⟨event_absWith (i := .xchgU rx) hs (length_inflight hs .uart) rfl (by simp) h, event_out (i := .xchgU rx) rfl h⟩

theorem execXchgS_performs (hs : s.WF) (h : execXchgS rx s = .next t) :
    Performs .spi t.inflightPairs (refXchgS s.cfg (drawElement s.cfg.W s.draws) rx s.absSpi) s t := by
  rw [refXchgS_absSpi hs, execXchgS_inflightPairs hs h]
  exact ⟨event_absWith (i := .xchgS rx) hs (length_inflightPairs hs) rfl (by simp) h, event_out (i := .xchgS rx) rfl h⟩

/-! ### The UART (R135) -/

theorem execEnqU_performs (hs : s.WF) (h : execEnqU v s = .next t) :
    Performs .uart (t.inflight .uart) (refEnqueue s.cfg.N v s.absUart) s t := by
  obtain ⟨hroom, haccepts⟩ | ⟨hfull, rfl⟩ := exec_enq_cases (p := .uart) (i := .enqU v) hs rfl h
  · rw [haccepts.inflight]
    exact haccepts.performs hroom (length_inflight hs .uart) v
  · rw [State.emit_inflight]
    exact refused_performs hfull (length_inflight hs .uart) v

/-- Every operation that the reference machine of the UART performs. -/
theorem exec_performs_refUart (hs : s.WF) (h : exec i s = .next t) {x : ReferenceStep Element}
    (hx : refUart s.cfg i s.absUart = some x) : Performs .uart (t.inflight .uart) x s t := by
  have hlength := length_inflight hs .uart
  have hkeeps : offeredBy .uart i = none → eventOf i ≠ some .uart → i ≠ .rst .uartTx → t.inflight .uart = s.inflight .uart :=
    fun hoffer hevent hrst => (exec_keepsInFlight hoffer hevent hrst h).inflight
  cases i with
  | enqU v => exact Option.some.inj hx ▸ execEnqU_performs hs h
  | xchgU rx => exact Option.some.inj hx ▸ execXchgU_performs hs h
  | deqU =>
    rw [hkeeps rfl (by decide) (by decide)]
    exact Option.some.inj hx ▸ dequeue_performs (p := .uart) h _
  | rst c =>
    cases c with
    | uartTx =>
      rw [execRst_inflight (p := .uart) h]
      exact Option.some.inj hx ▸ execRst_txOf_performs (p := .uart) h (s.inflight .uart)
    | uartRx =>
      rw [hkeeps rfl (by decide) (by decide)]
      exact Option.some.inj hx ▸ execRst_rxOf_performs (p := .uart) h _
    | spiTx | spiRx => cases hx
  | empty c =>
    rw [hkeeps rfl (by simp [eventOf]) (by simp)]
    cases c with
    | uartTx => exact Option.some.inj hx ▸ execEmpty_txOf_performs (p := .uart) hs hlength h
    | uartRx => exact Option.some.inj hx ▸ execEmpty_rxOf_performs (p := .uart) hs h _
    | spiTx | spiRx => cases hx
  | full c =>
    rw [hkeeps rfl (by simp [eventOf]) (by simp)]
    cases c with
    | uartTx => exact Option.some.inj hx ▸ execFull_txOf_performs (p := .uart) hs hlength h
    | uartRx => exact Option.some.inj hx ▸ execFull_rxOf_performs (p := .uart) hs h _
    | spiTx | spiRx => cases hx
  | hookset q =>
    rw [hkeeps rfl (by simp [eventOf]) (by simp)]
    cases q with
    | uart => exact Option.some.inj hx ▸ execHookset_performs (p := .uart) h _
    | spi => cases hx
  | hookclr q =>
    rw [hkeeps rfl (by simp [eventOf]) (by simp)]
    cases q with
    | uart => exact Option.some.inj hx ▸ execHookclr_performs (p := .uart) h _
    | spi => cases hx
  | enqS _ _ | deqS | xchgS _ => cases hx

/-- The operations the reference machine of the UART does not know are the SPI's. -/
theorem ownerOf_ne_uart (h : refUart s.cfg i s.absUart = none) : .uart ≠ ownerOf i := by
  cases i with
  | enqU _ | deqU | xchgU _ => cases h
  | rst c | empty c | full c => cases c <;> simp [refUart, ownerOf, periph] at h ⊢
  | hookset q | hookclr q => cases q <;> simp [refUart, ownerOf] at h ⊢
  | enqS _ _ | deqS | xchgS _ => simp [ownerOf]

theorem length_queue_rxOf_le (h : s.WF) (p : Peripheral) : (s.queue (rxOf p)).length ≤ s.cfg.N :=
  (length_queue_rxOf h p).trans_le ((wf_iff.1 h).1.ring _).aligned.cnt_le

/-- Settles O43: the operation is one of the reference machine, or it belongs to the SPI. -/
theorem uartRefinesTheListReference : Obligations.UartRefinesTheListReference := by
  intro s i hs _
  obtain ⟨t, ht⟩ := exec_completes hs i
  have hlength : s.absUart.F.length = s.pending .uart := length_inflight hs .uart
  refine ⟨?_, t, ht, ?_⟩
  · rw [hlength]
    exact ⟨loaded_eq_decide_pending hs .uart, cnt_eq_pending_sub_one hs .uart, pending_le_succ hs .uart,
      length_queue_rxOf_le hs .uart⟩
  · cases hx : refUart s.cfg i s.absUart with
    | some x =>
      obtain ⟨a, records⟩ := x
      obtain ⟨habs, hout⟩ := exec_performs_refUart hs ht hx
      exact ⟨habs, hout⟩
    | none =>
      have hother := ownerOf_ne_uart hx
      calc t.absUart = t.absWith .uart (s.inflight .uart) := by
            rw [absUart_eq_absWith, (exec_keepsInFlight_of_other hother ht).inflight]
        _ = s.absUart := exec_absWith_of_other hother ht _

/-! ### The SPI (R134) -/

theorem execEnqS_performs {keep : Bool} (hs : s.WF) (h : execEnqS v keep s = .next t) :
    Performs .spi t.inflightPairs (refEnqueue s.cfg.N (v, keep) s.absSpi) s t := by
  obtain ⟨hroom, haccepts⟩ | ⟨hfull, rfl⟩ := exec_enq_cases (p := .spi) (i := .enqS v keep) hs rfl h
  · rw [execEnqS_inflightPairs hs hroom h]
    exact haccepts.performs hroom (length_inflightPairs hs) (v, keep)
  · exact refused_performs hfull (length_inflightPairs hs) (v, keep)

/-- Every operation that the reference machine of the SPI performs. -/
theorem exec_performs_refSpi (hs : s.WF) (h : exec i s = .next t) {x : ReferenceStep (Element × Bool)}
    (hx : refSpi s.cfg (drawElement s.cfg.W s.draws) i s.absSpi = some x) : Performs .spi t.inflightPairs x s t := by
  have hlength := length_inflightPairs hs
  have hkeeps : offeredBy .spi i = none → eventOf i ≠ some .spi → i ≠ .rst .spiTx → t.inflightPairs = s.inflightPairs :=
    fun hoffer hevent hrst => (exec_keepsInFlight hoffer hevent hrst h).inflightPairs
  cases i with
  | enqS v keep => exact Option.some.inj hx ▸ execEnqS_performs hs h
  | xchgS rx => exact Option.some.inj hx ▸ execXchgS_performs hs h
  | deqS =>
    rw [hkeeps rfl (by decide) (by decide)]
    exact Option.some.inj hx ▸ dequeue_performs (p := .spi) h _
  | rst c =>
    cases c with
    | spiTx =>
      rw [execRst_inflightPairs h]
      exact Option.some.inj hx ▸ execRst_txOf_performs (p := .spi) h s.inflightPairs
    | spiRx =>
      rw [hkeeps rfl (by decide) (by decide)]
      exact Option.some.inj hx ▸ execRst_rxOf_performs (p := .spi) h _
    | uartTx | uartRx => cases hx
  | empty c =>
    rw [hkeeps rfl (by simp [eventOf]) (by simp)]
    cases c with
    | spiTx => exact Option.some.inj hx ▸ execEmpty_txOf_performs (p := .spi) hs hlength h
    | spiRx => exact Option.some.inj hx ▸ execEmpty_rxOf_performs (p := .spi) hs h _
    | uartTx | uartRx => cases hx
  | full c =>
    rw [hkeeps rfl (by simp [eventOf]) (by simp)]
    cases c with
    | spiTx => exact Option.some.inj hx ▸ execFull_txOf_performs (p := .spi) hs hlength h
    | spiRx => exact Option.some.inj hx ▸ execFull_rxOf_performs (p := .spi) hs h _
    | uartTx | uartRx => cases hx
  | hookset q =>
    rw [hkeeps rfl (by simp [eventOf]) (by simp)]
    cases q with
    | spi => exact Option.some.inj hx ▸ execHookset_performs (p := .spi) h _
    | uart => cases hx
  | hookclr q =>
    rw [hkeeps rfl (by simp [eventOf]) (by simp)]
    cases q with
    | spi => exact Option.some.inj hx ▸ execHookclr_performs (p := .spi) h _
    | uart => cases hx
  | enqU _ | deqU | xchgU _ => cases hx

/-- The operations the reference machine of the SPI does not know are the UART's. -/
theorem ownerOf_ne_spi (h : refSpi s.cfg v i s.absSpi = none) : .spi ≠ ownerOf i := by
  cases i with
  | enqS _ _ | deqS | xchgS _ => cases h
  | rst c | empty c | full c => cases c <;> simp [refSpi, ownerOf, periph] at h ⊢
  | hookset q | hookclr q => cases q <;> simp [refSpi, ownerOf] at h ⊢
  | enqU _ | deqU | xchgU _ => simp [ownerOf]

/-- Settles O42: the operation is one of the reference machine, or it belongs to the UART. -/
theorem spiRefinesTheListReference : Obligations.SpiRefinesTheListReference := by
  intro s i hs _
  obtain ⟨t, ht⟩ := exec_completes hs i
  have hlength : s.absSpi.F.length = s.pending .spi := length_inflightPairs hs
  refine ⟨?_, t, drawElement s.cfg.W s.draws, fits_drawElement _ _, ht, ?_⟩
  · rw [hlength]
    exact ⟨loaded_eq_decide_pending hs .spi, cnt_eq_pending_sub_one hs .spi, (wf_iff.1 hs).2.pos_eq, pending_le_succ hs .spi,
      length_queue_rxOf_le hs .spi⟩
  · cases hx : refSpi s.cfg (drawElement s.cfg.W s.draws) i s.absSpi with
    | some x =>
      obtain ⟨a, records⟩ := x
      obtain ⟨habs, hout⟩ := exec_performs_refSpi hs ht hx
      exact ⟨habs, hout⟩
    | none =>
      have hother := ownerOf_ne_spi hx
      calc t.absSpi = t.absWith .spi s.inflightPairs := by
            rw [absSpi_eq_absWith, (exec_keepsInFlight_of_other hother ht).inflightPairs]
        _ = s.absSpi := exec_absWith_of_other hother ht _

end Sys2Proof.Machine
end

section
/-!
PROOFS. The driver's state machine (43_exchange_driver.md R115): `fsm[p]` is read off `loaded[p]` and `cnt[TX(p)]` (10_state.md R34), and
what each operation does to those two gives its column of the table.
-/
namespace Sys2Proof.Machine

variable {s t u : State} {p : Peripheral} {i : Instr} {v : Element}

/-! ### The three states (R34) -/

theorem fsm_of_not_loaded (h : (s.driver p).loaded = false) : s.fsm p = .idle := by simp [State.fsm, driverState, h]

theorem fsm_of_loaded (h : (s.driver p).loaded = true) :
    s.fsm p = if (s.ring (txOf p)).cnt = 0 then .loaded else .draining := by simp [State.fsm, driverState, h]

theorem fsm_eq_idle_iff : s.fsm p = .idle ↔ (s.driver p).loaded = false := by
  cases hloaded : (s.driver p).loaded with
  | false => simp [fsm_of_not_loaded hloaded]
  | true => rw [fsm_of_loaded hloaded]; split <;> simp

theorem State.emit_fsm (s : State) (o : Output) (p : Peripheral) : (s.emit o).fsm p = s.fsm p := by
  simp [State.fsm]

theorem State.setSkip_fsm (s : State) (f : SkipFlags) (p : Peripheral) : (s.setSkip f).fsm p = s.fsm p := by
  simp [State.fsm]

theorem KeepsInFlight.fsm (h : KeepsInFlight p s t) : t.fsm p = s.fsm p := by
  rw [State.fsm, h.ring, h.driver]
  rfl

/-! ### The columns of the table -/

theorem enqueue_fsm (hs : s.WF) (h : enqueue p v s = .accepted t) :
    t.fsm p = if s.fsm p = .idle then .loaded else .draining := by
  obtain ⟨hfast, rfl⟩ | ⟨hslow, r, hpush, rfl⟩ := enqueue_accepted h
  · obtain ⟨hloaded, hempty⟩ := fastPath_iff.1 hfast
    rw [if_pos (fsm_of_not_loaded hloaded), fsm_of_loaded (by simp [stageSlot])]
    simp [stageSlot, hempty]
  · obtain ⟨-, -, rfl⟩ := rbPush_ok hpush
    have hloaded := loaded_of_slowPath hs hslow
    rw [if_neg (by simp [fsm_eq_idle_iff, hloaded]), fsm_of_loaded (by simpa using hloaded)]
    simp

/-- A port that refuses an ENQ is Draining, with its ring buffer full. -/
theorem fsm_of_full (hs : s.WF) (hfull : (s.ring (txOf p)).cnt = s.cfg.N) : s.fsm p = .draining := by
  obtain ⟨-, hidle, -⟩ := (wf_iff.1 hs).1.driver p
  have hcnt : (s.ring (txOf p)).cnt ≠ 0 := by have := hs.1.1; omega
  rw [fsm_of_loaded (by_contra fun hloaded => hcnt (hidle (eq_false_of_ne_true hloaded))), if_neg hcnt]

/-- The ENQ column. -/
theorem enq_fsm (hs : s.WF) (hi : offeredBy p i = some v) (h : exec i s = .next t) :
    t.fsm p = if s.fsm p = .idle then .loaded else .draining := by
  obtain ⟨u, f, henq, rfl⟩ | ⟨hrefused, rfl⟩ := exec_enq_next hi h
  · rw [State.emit_fsm, State.setSkip_fsm, enqueue_fsm hs henq]
  · rw [State.emit_fsm, fsm_of_full hs (cnt_eq_of_enqueue_bufferFull hrefused)]
    rfl

/-- The statuses of the ENQ column. -/
theorem enq_newOutputs (hs : s.WF) (hi : offeredBy p i = some v) (h : exec i s = .next t) :
    newOutputs s t = if s.fsm p = .draining ∧ (s.ring (txOf p)).cnt = s.cfg.N then [.response 0x00010000]
      else [.response 0x00000000] := by
  obtain ⟨u, f, henq, rfl⟩ | ⟨hrefused, rfl⟩ := exec_enq_next hi h
  · rw [if_neg fun hfull => cnt_ne_of_enqueue_accepted henq hs.1.1 hfull.2]
    exact (((enqueue_appends henq).setSkip f).trans (.emit _ _)).newOutputs
  · have hfull := cnt_eq_of_enqueue_bufferFull hrefused
    rw [if_pos ⟨fsm_of_full hs hfull, hfull⟩, newOutputs_of_out_eq (State.emit_out s _)]

/-- The column of the event, by what is queued before it. -/
theorem event_fsm (hi : eventOf i = some p) (h : exec i s = .next t) :
    t.fsm p = if (s.ring (txOf p)).cnt = 0 then .idle else if (s.ring (txOf p)).cnt = 1 then .loaded else .draining := by
  obtain ⟨hloaded, -, hcnt, -⟩ := event_refills hi h
  by_cases hempty : (s.ring (txOf p)).cnt = 0
  · rw [if_pos hempty, fsm_of_not_loaded (by simp [hloaded, hempty])]
  · rw [if_neg hempty, fsm_of_loaded (by simp [hloaded, hempty]), hcnt]
    exact if_congr (by omega) rfl rfl

/-- The column of RST of TX(p). -/
theorem execRst_fsm (h : execRst (txOf p) s = .next t) : t.fsm p = .idle := by
  obtain rfl := respond_next h
  cases p <;> rfl

/-- Settles O38, column by column; an operation of no column leaves what is in flight alone. -/
theorem driverTransitionTable : Obligations.DriverTransitionTable := by
  intro s t p i hs
  refine ⟨fun h => ?_, fun h => ?_⟩
  · cases hoffer : offeredBy p i with
    | some v =>
      exact ⟨by rw [if_pos (Option.some_ne_none v), enq_fsm hs hoffer h], fun _ => enq_newOutputs hs hoffer h⟩
    | none =>
      refine ⟨?_, fun hne => absurd rfl hne⟩
      rw [if_neg (not_not.2 rfl)]
      by_cases hevent : eventOf i = some p
      · rw [if_pos hevent, event_fsm hevent h]
      rw [if_neg hevent]
      by_cases hrst : i = .rst (txOf p)
      · subst hrst
        rw [if_pos rfl, execRst_fsm h]
      · rw [if_neg hrst, (exec_keepsInFlight hoffer hevent hrst h).fsm]
  · obtain rfl := raiseStatus_next h
    exact s.emit_fsm _ p

end Sys2Proof.Machine
end

section
/-!
PROOFS. The two events in full (43_exchange_driver.md R116, R117): the word of each, and its next state, put together from an equation for
each part of the common end. And the steps that perform nothing: refused stimuli, refused configurations, an empty schedule (R123).
-/
namespace Sys2Proof

variable {w : Width} {i : Instr}

/-! ### The words of the events (R72, R73) -/

theorem encode_xchgU (rx : Element) : encode (.xchgU rx) = 0x80000000 ||| rx.setWidth 32 :=
  congrArg (· ||| rx.setWidth 32) (by decide)

theorem encode_xchgS (rx : Element) : encode (.xchgS rx) = 0x80100000 ||| rx.setWidth 32 :=
  congrArg (· ||| rx.setWidth 32) (by decide)

/-- The word of an event decodes to it at the widths that can spell it, and to nothing at the others. -/
theorem decodeEvent_encode_eq {p : Peripheral} (hi : Machine.eventOf i = some p) :
    decodeEvent w (encode i) = if i.wellFormed w then some i else none := by
  split
  · next hw => exact Machine.decodeEvent_encode hi hw
  · next hw =>
    refine Option.eq_none_iff_forall_ne_some.2 fun j hj => hw ?_
    obtain rfl := encode_injective (encode_of_decodeEvent hj)
    exact wellFormed_of_decodeEvent hj

namespace Machine

variable {s : State} {p : Peripheral} {v rx : Element} {keep : Bool}

/-! ### The parts of the common end (R116, R117) -/

/-- RX(p) after the harvest. -/
def harvestedRing (N : Nat) (keep : Bool) (rx : Element) (r : Ring) : Ring :=
  if keep = true ∧ r.cnt ≠ N then { r with buf := r.buf.write r.wr rx, wr := nextIndex N r.wr, cnt := r.cnt + 1 } else r

/-- TX(p) after the refill. -/
def refilledRing (N : Nat) (r : Ring) : Ring :=
  if r.cnt = 0 then r else { r with rd := nextIndex N r.rd, cnt := r.cnt - 1 }

/-- The driver of `p` after the refill, when `v` is at the head of TX(p). -/
def refilledDriver (v : Element) (r : Ring) (d : Driver) : Driver :=
  if r.cnt = 0 then { d with loaded := false, notify := false } else { d with slot := v, loaded := true, notify := true }

theorem harvest_eq (hwr : (s.ring (rxOf p)).wr < s.cfg.N) :
    harvest p keep rx s = .ok (s.setRing (rxOf p) (harvestedRing s.cfg.N keep rx (s.ring (rxOf p)))) := by
  unfold harvestedRing
  split_ifs with hstores
  · obtain ⟨rfl, hroom⟩ := hstores
    simp [harvest, rbPush_of_room hroom hwr]
  · rw [State.setRing_self]
    cases keep with
    | false => rfl
    | true =>
      have hfull : (s.ring (rxOf p)).cnt = s.cfg.N := by simpa using hstores
      simp [harvest, rbPush_bufferFull.2 hfull]

theorem refill_eq (h : (s.ring (txOf p)).cnt ≠ 0 →
      (s.ring (txOf p)).rd < s.cfg.N ∧ (s.ring (txOf p)).buf.read (s.ring (txOf p)).rd = some v) :
    refill p s = .ok ((s.setRing (txOf p) (refilledRing s.cfg.N (s.ring (txOf p)))).setDriver p
      (refilledDriver v (s.ring (txOf p)) (s.driver p))) := by
  unfold refilledRing refilledDriver
  split_ifs with hempty
  · simp [refill, rbPop_bufferEmpty.2 hempty]
  · obtain ⟨hrd, hread⟩ := h hempty
    exact refill_of_pop (rbPop_of_read hempty hrd hread)

@[simp] theorem refilledDriver_hook (v : Element) (r : Ring) (d : Driver) : (refilledDriver v r d).hook = d.hook := by
  unfold refilledDriver
  split <;> rfl

/-- The common end of both events, on every state with a legal write index of RX(p) and an element at the read index of TX(p). -/
theorem finishExchange_eq (hwr : (s.ring (rxOf p)).wr < s.cfg.N)
    (h : (s.ring (txOf p)).cnt ≠ 0 →
      (s.ring (txOf p)).rd < s.cfg.N ∧ (s.ring (txOf p)).buf.read (s.ring (txOf p)).rd = some v) :
    finishExchange p keep rx s =
      .next { ((s.setRing (rxOf p) (harvestedRing s.cfg.N keep rx (s.ring (rxOf p)))).setRing (txOf p)
          (refilledRing s.cfg.N (s.ring (txOf p)))).setDriver p (refilledDriver v (s.ring (txOf p)) (s.driver p)) with
        out := s.out ++ refHookRecord p (s.driver p).hook } := by
  have htx := State.setRing_ring_of_ne (s := s) (r := harvestedRing s.cfg.N keep rx (s.ring (rxOf p))) (txOf_ne_rxOf p p)
  rw [finishExchange, harvest_eq hwr]
  simp only
  rw [refill_eq (v := v) (by rwa [htx, State.setRing_cfg])]
  simp only [fireHook_eq, htx, State.setRing_cfg, State.setRing_driver, State.setDriver_driver_same, refilledDriver_hook,
    State.setDriver_out, State.setRing_out]

/-! ### XCHG.U and XCHG.S -/

/-- XCHG.U always keeps the received element; only a full ring buffer drops it (R116, R120). -/
theorem harvestedRing_true (N : Nat) (rx : Element) (r : Ring) : harvestedRing N true rx r =
    if r.cnt = N then r else { r with buf := r.buf.write r.wr rx, wr := nextIndex N r.wr, cnt := r.cnt + 1 } := by
  by_cases hfull : r.cnt = N <;> simp [harvestedRing, hfull]

/-- The decision SF.CONSUME answers and the vector it leaves (R93). -/
theorem sfConsume_eq (idleKeep : Bool) (f : SkipFlags) : sfConsume idleKeep f =
    (if f.pos = 0 then idleKeep else f.vec.testBit 0, if f.pos = 0 then f else { vec := f.vec >>> 1, pos := f.pos - 1 }) := by
  by_cases hpos : f.pos = 0
  · simp [sfConsume_idle hpos, hpos]
  · simp [sfConsume_pending hpos, hpos]

/-- Settles O36: the wire record, then the common end. -/
theorem xchgUHarvestsAndRefills : Obligations.XchgUHarvestsAndRefills := by
  refine ⟨fun w rx => ?_, fun s rx v hwr hread => ?_⟩
  · rw [← encode_xchgU, decodeEvent_encode_eq rfl]
    simp only [Instr.wellFormed, Width.fits, decide_eq_true_eq]
  · rw [exec, execXchgU_eq, recordSentU_eq, finishExchange_eq (v := v), harvestedRing_true]
    · rfl
    · exact hwr
    · exact hread

/-- Settles O37: the wire record, the decision consumed, then the common end. -/
theorem xchgSConsumesHarvestsAndRefills : Obligations.XchgSConsumesHarvestsAndRefills := by
  refine ⟨fun w rx => ?_, fun s rx v hwr hread => ⟨drawElement s.cfg.W s.draws, fits_drawElement _ _, ?_⟩⟩
  · rw [← encode_xchgS, decodeEvent_encode_eq rfl]
    simp only [Instr.wellFormed, Width.fits, decide_eq_true_eq]
  · rw [exec, execXchgS_eq, recordSentS_eq, finishExchange_eq (v := v), sfConsume_eq]
    · rfl
    · exact hwr
    · exact hread

/-! ### Steps that perform nothing -/

theorem decodeStrobe_eq_none {w : Width} {x : Word32} (h : ∀ i, decodeEvent w x = some i → eventOf i ≠ some p) :
    decodeStrobe w p x = none :=
  Option.eq_none_iff_forall_ne_some.2 fun i hi =>
    have ⟨hx, hevent⟩ := decodeStrobe_some hi
    h i hx hevent

/-- Settles O11: what is fetched is malformed, or nothing is fetched. -/
theorem refusedStimulusRefusedConfigurationAndStalledClock :
    Obligations.RefusedStimulusRefusedConfigurationAndStalledClock := by
  refine ⟨fun s p x q hc hnext hx => ?_, fun s hc => if_neg hc, fun s hc hq => ?_⟩
  · have hfetch : fetch s = .malformed x := by simp only [fetch, hnext, decodeStrobe_eq_none hx]
    rw [step_of_fetch hc, hfetch]
  · have hfetch : fetch s = .idle := by simp only [fetch, hq, takeNext]
    rw [step_of_fetch hc, hfetch]

end Machine
end Sys2Proof
end

section
/-!
PROOFS. Power-on reset and the STOP sequence (70_reset_and_hazards.md R159, R162): which control fields have to be zero for the views to be
those of the reset state (10_state.md R45), and that both leave them so.
-/
namespace Sys2Proof.Machine

variable {s t : State} {is js : List Instr}

/-! ### The views of the reset state (R42, R45) -/

/-- Empty ring buffers, no pending decision and idle drivers without a hook show what the reset state shows, whatever the indices, the dead
locations and the slots hold. -/
theorem observables_eq_reset (c : Config) (hcnt : ∀ ch, (s.ring ch).cnt = 0) (hpos : s.skip.pos = 0)
    (hview : ∀ p, (s.driver p).view = Driver.reset.view) : s.observables = (State.resetWith c).observables := by
  have hqueue : ∀ ch, s.queue ch = [] := fun ch => queue_of_cnt_zero (hcnt ch)
  have huart : s.uart.view = Driver.reset.view := hview .uart
  have hspi : s.spi.view = Driver.reset.view := hview .spi
  simp only [State.observables, hqueue, decisions_of_pos_zero hpos, huart, hspi]
  rfl

/-- The slots hold free values after power-on reset, and nothing is loaded, so neither is seen. -/
theorem powerOnReset_observables (s : State) : (powerOnReset s).observables = (State.resetWith s.cfg).observables :=
  observables_eq_reset s.cfg (fun ch => by cases ch <;> rfl) rfl (fun p => by cases p <;> rfl)

/-! ### Power-on reset asserted (R159) -/

/-- A period with reset asserted presents the reset and nothing else. -/
theorem takeNext_of_reset {p : Period} (hp : p.reset = true) (rest : List Period) : takeNext (p :: rest) = (.reset, rest) :=
  if_pos hp

theorem fetch_of_takeNext_reset {q : List Period} (h : takeNext s.schedule = (.reset, q)) :
    fetch s = .reset (s.setSchedule q) := by
  simp only [fetch, h]

/-- Settles O15: the step is the power-on reset of the state without that period. -/
theorem powerOnResetFromAnyState : Obligations.PowerOnResetFromAnyState := by
  intro s p rest hc hp hschedule
  have hfetch : fetch s = .reset (s.setSchedule rest) :=
    fetch_of_takeNext_reset (by rw [hschedule, takeNext_of_reset hp])
  refine ⟨powerOnReset (s.setSchedule rest), by rw [step_of_fetch hc, hfetch], ?_, rfl, rfl, rfl⟩
  exact powerOnReset_observables (s.setSchedule rest)

/-! ### The STOP sequence (R78, R162) -/

theorem runInstrs_append (h : runInstrs is s = some t) : runInstrs (is ++ js) s = runInstrs js t := by
  induction is generalizing s with
  | nil => exact congrArg (runInstrs js) (Option.some.inj h)
  | cons i is ih =>
    obtain ⟨u, hu, hrest⟩ := exec_of_runInstrs_cons h
    rw [List.cons_append, runInstrs_cons hu, ih hrest]

/-- STOP of `p` empties both its ring buffers, returns its driver to Idle and, for the SPI, drops the pending decisions; the hook and the
other peripheral stay (R160, R162). -/
structure Stops (p : Peripheral) (s t : State) : Prop where
  ring : ∀ c, t.ring c = if periph c = p then rbReset (s.ring c) else s.ring c
  driver : ∀ q, t.driver q = if q = p then { s.driver q with loaded := false, notify := false } else s.driver q
  skip : t.skip = if p = .spi then { vec := 0, pos := 0 } else s.skip

theorem runInstrs_stopExpansion (p : Peripheral) (s : State) : ∃ t, runInstrs (stopExpansion p) s = some t ∧ Stops p s t := by
  cases p with
  | uart => exact ⟨_, rfl, fun c => by cases c <;> rfl, fun q => by cases q <;> rfl, rfl⟩
  | spi => exact ⟨_, rfl, fun c => by cases c <;> rfl, fun q => by cases q <;> rfl, rfl⟩

/-- HOOKCLR of both peripherals clears the two hooks and keeps what the other views are read from (R108). -/
theorem runInstrs_hookclrs (s : State) : ∃ t, runInstrs [.hookclr .uart, .hookclr .spi] s = some t ∧
    (∀ c, t.ring c = s.ring c) ∧ t.skip = s.skip ∧ ∀ q, t.driver q = { s.driver q with hook := false } :=
  ⟨_, rfl, fun c => by cases c <;> rfl, rfl, fun q => by cases q <;> rfl⟩

/-- Settles O16: the two STOPs clear everything seen but the hooks, each its own peripheral, and the two HOOKCLRs clear those. -/
theorem stopSequenceReachesTheResetView : Obligations.StopSequenceReachesTheResetView := by
  intro s
  obtain ⟨a, hstopU, ha⟩ := runInstrs_stopExpansion .uart s
  obtain ⟨b, hstopS, hb⟩ := runInstrs_stopExpansion .spi a
  obtain ⟨t, hclear, hring, hskip, hdriver⟩ := runInstrs_hookclrs b
  refine ⟨t, ?_, ?_⟩
  · rw [List.append_assoc, runInstrs_append hstopU, runInstrs_append hstopS, hclear]
  rw [powerOnReset_observables]
  refine observables_eq_reset s.cfg (fun c => ?_) ?_ (fun q => ?_)
  · rw [hring, hb.ring, ha.ring]
    cases c <;> rfl
  · rw [hskip, hb.skip, if_pos rfl]
  · rw [hdriver, hb.driver, ha.driver]
    cases q <;> rfl

end Sys2Proof.Machine
end
